-- ==== Sys2Proof/Word.lean ====
section
/-!
DEFINITION. The widths the spec fixes: a byte (R8) and the 16-bit values sent on the bus as two bytes (R68).
All other values of the spec are exact integers (R9) and are `Int` or `Nat`.
-/

namespace Sys2Proof

/-- A byte, bits 7 down to 0 (R8). -/
abbrev Byte := BitVec 8

/-- A 16-bit value the bus carries as a low byte and a high byte (R68a). -/
abbrev Half := BitVec 16

end Sys2Proof
end

