-- ==== Sys2Proof/Config.lean ====
section
/-!
DEFINITION. What a build of the engine fixes (R5, R6), and the free values: what the spec leaves open and the model
must not choose (R29, R41, R134).
-/

namespace Sys2Proof

/-- The two frame buffers (R25, R26): Portrait, selector 0, and Landscape, selector 1. -/
inductive Buf where
  | portrait
  | landscape
  deriving DecidableEq, Repr, Inhabited

/-- The answer of one busy sample (R11, R134). -/
inductive Answer where
  | busy
  | idle
  deriving DecidableEq, Repr, Inhabited

/-- The configuration record `Cfg` of R6, field for field. A `Cfg` is raw data here; the constraints of R6 are
`Cfg.legal` (Machine/Operands.lean), and the step refuses a `Cfg` that breaks one. -/
structure Cfg where
  /-- W_PX: native width in pixels, the byte-addressed axis. -/
  wPx : Nat
  /-- H_PX: native height in rows. -/
  hPx : Nat
  /-- TXT_W: the width the text layout fits against. -/
  txtW : Nat
  /-- TXT_H: the height the text layout fits against. -/
  txtH : Nat
  /-- MODE_FULL: the operand of `init` that selects full refresh. -/
  modeFull : Int
  /-- MODE_PARTIAL: the operand of `init` that selects partial refresh. -/
  modePartial : Int
  /-- DATA_ENTRY_BYTE: the data byte after 0x11. -/
  dataEntryByte : Byte
  /-- X_OFFSET: X start of the init window. -/
  xOffset : Int
  /-- WIN_XE: X end of the init window. -/
  winXe : Int
  /-- WIN_YE: Y end of the init window. -/
  winYe : Int
  /-- FULL_CTRL_CMD: the command of the full-refresh branch. -/
  fullCtrlCmd : Byte
  /-- FULL_CTRL_BYTE: its data byte. -/
  fullCtrlByte : Byte
  /-- LUT: the waveform table. -/
  lut : List Byte
  /-- OPT_NZ_INDEX: 0-based index of the non-zero byte after 0x37. -/
  optNzIndex : Nat
  /-- OPT_NZ_BYTE: its value. -/
  optNzByte : Byte
  /-- BORDER_BYTE: the data byte after 0x3C. -/
  borderByte : Byte
  /-- UPDATE_CTRL_BYTE: the data byte after 0x22 in partial mode. -/
  updateCtrlByte : Byte
  /-- CUR_X: X of the fixed reference point set before a RAM write. -/
  curX : Int
  /-- CUR_Y: Y of that point. -/
  curY : Int
  /-- SLEEP_MODE_BYTE: the data byte after 0x10. -/
  sleepModeByte : Byte
  /-- T_RST_LOW: a duration no rule interprets (R130, R270; its value in the reference build: log entry 17). -/
  tRstLow : Nat
  /-- T_RST_HIGH: a duration no rule interprets. -/
  tRstHigh : Nat
  /-- T_POLL: a duration no rule interprets. -/
  tPoll : Nat
  /-- BUSY_TIMEOUT: the most samples of one wait; `none` is the spec's ∞ (R134). -/
  busyTimeout : Option Nat
  /-- CS_ACTIVE: electrical level of the asserted chip-select line (read only by the pin-level view, R93). -/
  csActive : Bool
  /-- DC_CMD: level of the discriminator line for a command. -/
  dcCmd : Bool
  /-- RST_ACTIVE: level of the asserted reset line. -/
  rstActive : Bool
  /-- BUSY_ACTIVE: level of the busy line that means busy. -/
  busyActive : Bool
  /-- FONT as a table: entry `c` is the glyph of byte `c`, its bit `8 * row + col` set where the glyph has ink. -/
  font : List (BitVec 64)
  /-- TXT_MAX: longest text operand in bytes. -/
  txtMax : Nat
  deriving DecidableEq, Repr

/-! ### Constants the document fixes (R5): not parameters -/

/-- LUT_USED: how many waveform bytes the upload consumes (R5, R107). -/
def Config.lutUsed : Nat := 153

/-- OPT_LEN: data bytes after 0x37 (R5, R108). -/
def Config.optLen : Nat := 10

/-- FALLBACK_SCALE (R5, R199). -/
def Config.fallbackScale : Nat := 3

/-- The thirteen controller command bytes, in the order of R5. -/
def Config.commandBytes : List Byte :=
  [0x12#8, 0x11#8, 0x44#8, 0x45#8, 0x4E#8, 0x4F#8, 0x24#8, 0x32#8, 0x37#8, 0x3C#8, 0x22#8, 0x20#8, 0x10#8]

/-! ### Free values: constants with no body -/

/-- The arbitrary value byte `k` of buffer `b` has from the engine's reset until it is first written (R41, U3).
Log entry 3. -/
opaque Config.fbReset (b : Buf) (k : Nat) : Byte

/-- The busy answer of the `n`-th sample that State's settled answers do not cover: the environment's free draw
(R32, R134). Log entry 4. -/
opaque Config.freeAnswer (n : Nat) : Answer

/-- The level of the discriminator line between transactions, after `n` events (R29: "any value"). Log entry 14. -/
opaque Config.dcIdle (n : Nat) : Bool

/-! ### The reference configuration, a fixture of the spec (92_eei_decisions.md section 2)

DESIGN CHOICE, log entry 1: the build State.reset carries. No statement rests on its values. REFCFG leaves T_RST_LOW, T_RST_HIGH and T_POLL
symbolic and no source gives a duration (R130, R134, R270; N2, N3): the 0 of each below is the model's own DESIGN CHOICE, log
entry 17, and no step and no statement reads it. -/

/-- The test font TF of 95_test_vectors.md section 1, pixel by pixel. -/
def Config.testFontInk (c col row : Nat) : Bool :=
  if c = 0x20 ∨ (0x09 ≤ c ∧ c ≤ 0x0D) then false
  else if c = 0x49 then col = 3 ∧ 1 ≤ row ∧ row ≤ 6
  else if c = 0x2D then row = 3 ∧ 1 ≤ col ∧ col ≤ 6
  else if c = 0x23 then true
  else col = c % 8 ∧ row = (c / 8) % 8

/-- One glyph of TF as 64 bits. -/
def Config.testGlyph (c : Nat) : BitVec 64 :=
  BitVec.ofNat 64 (((List.range 64).map fun i => if Config.testFontInk c (i % 8) (i / 8) then 2 ^ i else 0).sum)

/-- REFCFG; the three durations, which REFCFG leaves symbolic, are the model's 0 (DESIGN CHOICE, log entry 17). -/
def Config.reference : Cfg where
  wPx := 152
  hPx := 296
  txtW := 296
  txtH := 152
  modeFull := 0
  modePartial := 1
  dataEntryByte := 0x03#8
  xOffset := 8
  winXe := 152
  winYe := 296
  fullCtrlCmd := 0x22#8
  fullCtrlByte := 0x01#8
  lut := (List.range 163).map (BitVec.ofNat 8)
  optNzIndex := 5
  optNzByte := 0x40#8
  borderByte := 0x80#8
  updateCtrlByte := 0xCF#8
  curX := 1
  curY := 0
  sleepModeByte := 0x01#8
  tRstLow := 0
  tRstHigh := 0
  tPoll := 0
  busyTimeout := none
  csActive := false
  dcCmd := false
  rstActive := false
  busyActive := true
  font := (List.range 256).map Config.testGlyph
  txtMax := 256

end Sys2Proof
end

