-- ==== Sys2Proof/Syntax.lean ====
section
/-!
DEFINITION. The rows of spec/opcode_table.json as one inductive type: the fourteen host requests (R114) and the
fourteen bus commands (R100 to R113). Integer operands are the exact integers the host passed (R9), also out of range: the
checks of R225 belong to the machine.
-/

namespace Sys2Proof

/-- A pixel source (R173, R33): the answers of the host's pure function in row-major order over the rectangle it is
asked on, then `rest` for every later point. Every function on a finite rectangle has this form (log entry 9). An
answer is a byte, so that one other than 0 or 1 can be given (R225). -/
structure PixelSource where
  answers : List Byte
  rest : Byte
  deriving DecidableEq, Repr

/-- Where the data bytes after 0x24 come from (R106, R94): a buffer streamed verbatim (`display`), a buffer through the
landscape transform (`displayLandscape`), or copies of one byte (`clear`). -/
inductive RamSource where
  | verbatim (b : Buf)
  | rotated (b : Buf)
  | constant (v : Byte)
  deriving DecidableEq, Repr

/-- One constructor per row of the opcode table. -/
inductive Instr where
  -- host requests (R114)
  | init (mode : Int)
  | setWindow (xs ys xe ye : Int)
  | setCursor (x y : Int)
  | turnOn
  | display (b : Int)
  | displayL (b : Int)
  | clear (colorByte : Int)
  | sleep
  | setPixel (b x y color : Int)
  | fillRect (b x y w h color : Int)
  | fill (b color : Int)
  | blit (b : Int) (src : PixelSource) (destX destY width height : Int)
  | stext (b : Int) (text : List Byte) (x y scale color : Int)
  | autofit (b : Int) (text : List Byte) (x y color : Int) (cap : Option Int) (center centerVertical : Bool)
  -- bus commands (R100 to R113); operands are what the issuing operation supplies, the other data bytes are in `Cfg`
  | cmdSwReset
  | cmdDataEntry
  | cmdWindowX (xs xe : Byte)
  | cmdWindowY (ys ye : Half)
  | cmdCursorX (x : Byte)
  | cmdCursorY (y : Half)
  | cmdWriteRam (src : RamSource)
  | cmdWriteLut
  | cmdDisplayOption
  | cmdBorder
  | cmdUpdateCtrl
  | cmdActivate
  | cmdDeepSleep
  | cmdFullCtrl
  deriving DecidableEq, Repr

/-- The rows of format HOST_REQUEST: what a host may request (R114, R136). -/
def Instr.isRequest : Instr → Bool
  | .init _ => true
  | .setWindow _ _ _ _ => true
  | .setCursor _ _ => true
  | .turnOn => true
  | .display _ => true
  | .displayL _ => true
  | .clear _ => true
  | .sleep => true
  | .setPixel _ _ _ _ => true
  | .fillRect _ _ _ _ _ _ => true
  | .fill _ _ => true
  | .blit _ _ _ _ _ _ => true
  | .stext _ _ _ _ _ _ => true
  | .autofit _ _ _ _ _ _ _ _ => true
  | .cmdSwReset => false
  | .cmdDataEntry => false
  | .cmdWindowX _ _ => false
  | .cmdWindowY _ _ => false
  | .cmdCursorX _ => false
  | .cmdCursorY _ => false
  | .cmdWriteRam _ => false
  | .cmdWriteLut => false
  | .cmdDisplayOption => false
  | .cmdBorder => false
  | .cmdUpdateCtrl => false
  | .cmdActivate => false
  | .cmdDeepSleep => false
  | .cmdFullCtrl => false

end Sys2Proof
end

