-- ==== Sys2Proof/WellFormed.lean ====
section
/-!
DEFINITION. Which instructions the request format can carry: every integer operand fits the format's 64-bit field
(log entry 7). This is wider than what the engine accepts: the operand limits of R9 and R225 are checked by the
machine, which answers BadRequest.
-/

namespace Sys2Proof

/-- The values a 64-bit operand field of a request frame can carry. -/
def fitsField (v : Int) : Bool :=
  decide (-(2 ^ 63) ≤ v) && decide (v < 2 ^ 63)

/-- The format can carry the instruction. -/
def Instr.wellFormed : Instr → Bool
  | .init mode => fitsField mode
  | .setWindow xs ys xe ye => fitsField xs && fitsField ys && fitsField xe && fitsField ye
  | .setCursor x y => fitsField x && fitsField y
  | .turnOn => true
  | .display b => fitsField b
  | .displayL b => fitsField b
  | .clear v => fitsField v
  | .sleep => true
  | .setPixel b x y color => fitsField b && fitsField x && fitsField y && fitsField color
  | .fillRect b x y w h color =>
      fitsField b && fitsField x && fitsField y && fitsField w && fitsField h && fitsField color
  | .fill b color => fitsField b && fitsField color
  | .blit b _ x y w h => fitsField b && fitsField x && fitsField y && fitsField w && fitsField h
  | .stext b _ x y scale color =>
      fitsField b && fitsField x && fitsField y && fitsField scale && fitsField color
  | .autofit b _ x y color cap _ _ =>
      fitsField b && fitsField x && fitsField y && fitsField color && cap.all fitsField
  | .cmdSwReset => true
  | .cmdDataEntry => true
  | .cmdWindowX _ _ => true
  | .cmdWindowY _ _ => true
  | .cmdCursorX _ => true
  | .cmdCursorY _ => true
  | .cmdWriteRam _ => true
  | .cmdWriteLut => true
  | .cmdDisplayOption => true
  | .cmdBorder => true
  | .cmdUpdateCtrl => true
  | .cmdActivate => true
  | .cmdDeepSleep => true
  | .cmdFullCtrl => true

end Sys2Proof
end

