-- ==== Sys2Proof/Decode.lean ====
section
/-!
DEFINITION. The code bytes of R114 and R100 to R113, the byte form of a request frame and of a bus command, the
decoder (total, rejecting by name) and the encoder.

The codes, the operands and their order are the spec's (R114). The byte form of one operand is the model's (R114
leaves the transport open; log entry 7): an integer is eight bytes, least significant first, two's complement; a byte
string is each byte behind a 01 byte, ended by a 00 byte; a boolean is 00 or 01; an absent cap is 00, a present one 01 and the
integer; a pixel source is its answers as a byte string, then its `rest` byte. A bus command is its command byte and the
operand bytes in the order they go to the bus (R102 to R105); the RAM source of 0x24 is two bytes.
-/

namespace Sys2Proof

/-- Why a frame is no instruction. -/
inductive DecodeError where
  /-- an empty frame: no code byte -/
  | noCode
  /-- a code byte outside the table (R116a) -/
  | unknownCode (c : Byte)
  /-- operands missing or with an unknown tag -/
  | badOperands (mnemonic : String)
  /-- bytes after the last operand -/
  | trailing (mnemonic : String)
  /-- a bus command, which a host cannot request (R136) -/
  | notARequest (c : Byte)
  deriving DecidableEq, Repr

/-! ### Operand forms -/

/-- The eight bytes of an integer operand, least significant first. -/
def encodeInt (v : Int) : List Byte :=
  let w := BitVec.ofInt 64 v
  (List.range 8).map fun i => w.extractLsb' (8 * i) 8

/-- Reads an integer operand. -/
def takeInt : List Byte → Option (Int × List Byte)
  | b0 :: b1 :: b2 :: b3 :: b4 :: b5 :: b6 :: b7 :: rest =>
      some ((b7 ++ b6 ++ b5 ++ b4 ++ b3 ++ b2 ++ b1 ++ b0).toInt, rest)
  | _ => none

/-- A byte string, each byte behind 01, ended by 00. -/
def encodeText : List Byte → List Byte
  | [] => [0#8]
  | b :: bs => 1#8 :: b :: encodeText bs

/-- Reads a byte string. -/
def takeText : List Byte → Option (List Byte × List Byte)
  | [] => none
  | [t] => if t = 0#8 then some ([], []) else none
  | t :: b :: rest =>
      if t = 0#8 then some ([], b :: rest)
      else if t = 1#8 then (takeText rest).map fun p => (b :: p.1, p.2)
      else none

/-- Reads one byte. -/
def takeByte : List Byte → Option (Byte × List Byte)
  | [] => none
  | b :: rest => some (b, rest)

/-- A boolean operand. -/
def encodeBool (v : Bool) : List Byte :=
  [if v then 1#8 else 0#8]

/-- Reads a boolean operand. -/
def takeBool : List Byte → Option (Bool × List Byte)
  | [] => none
  | t :: rest => if t = 0#8 then some (false, rest) else if t = 1#8 then some (true, rest) else none

/-- The cap of `autoFitText`: an integer or `none` (R114). -/
def encodeCap : Option Int → List Byte
  | none => [0#8]
  | some v => 1#8 :: encodeInt v

/-- Reads a cap. -/
def takeCap : List Byte → Option (Option Int × List Byte)
  | [] => none
  | t :: rest =>
      if t = 0#8 then some (none, rest)
      else if t = 1#8 then (takeInt rest).map fun p => (some p.1, p.2)
      else none

/-- A pixel source. -/
def encodeSource (src : PixelSource) : List Byte :=
  encodeText src.answers ++ [src.rest]

/-- Reads a pixel source. -/
def takeSource (bs : List Byte) : Option (PixelSource × List Byte) :=
  (takeText bs).bind fun p => (takeByte p.2).map fun q => (⟨p.1, q.1⟩, q.2)

/-- A 16-bit value, low byte then high byte (R68a, R115b). -/
def encodeHalf (v : Half) : List Byte :=
  [v.extractLsb' 0 8, v.extractLsb' 8 8]

/-- Reads a 16-bit value. -/
def takeHalf : List Byte → Option (Half × List Byte)
  | lo :: hi :: rest => some (hi ++ lo, rest)
  | _ => none

/-- The RAM source of 0x24. -/
def encodeRamSource : RamSource → List Byte
  | .verbatim .portrait => [0#8, 0#8]
  | .verbatim .landscape => [0#8, 1#8]
  | .rotated .portrait => [1#8, 0#8]
  | .rotated .landscape => [1#8, 1#8]
  | .constant v => [2#8, v]

/-- Reads a RAM source. -/
def takeRamSource : List Byte → Option (RamSource × List Byte)
  | k :: v :: rest =>
      if k = 2#8 then some (.constant v, rest)
      else if k = 0#8 ∧ v = 0#8 then some (.verbatim .portrait, rest)
      else if k = 0#8 ∧ v = 1#8 then some (.verbatim .landscape, rest)
      else if k = 1#8 ∧ v = 0#8 then some (.rotated .portrait, rest)
      else if k = 1#8 ∧ v = 1#8 then some (.rotated .landscape, rest)
      else none
  | _ => none

/-! ### The operands of each operation code, in the order of R114 -/

def takeInit (bs : List Byte) : Option (Instr × List Byte) :=
  (takeInt bs).map fun p => (.init p.1, p.2)

def takeSetWindow (bs : List Byte) : Option (Instr × List Byte) :=
  (takeInt bs).bind fun xs => (takeInt xs.2).bind fun ys => (takeInt ys.2).bind fun xe =>
    (takeInt xe.2).map fun ye => (.setWindow xs.1 ys.1 xe.1 ye.1, ye.2)

def takeSetCursor (bs : List Byte) : Option (Instr × List Byte) :=
  (takeInt bs).bind fun x => (takeInt x.2).map fun y => (.setCursor x.1 y.1, y.2)

def takeDisplay (bs : List Byte) : Option (Instr × List Byte) :=
  (takeInt bs).map fun b => (.display b.1, b.2)

def takeDisplayL (bs : List Byte) : Option (Instr × List Byte) :=
  (takeInt bs).map fun b => (.displayL b.1, b.2)

def takeClear (bs : List Byte) : Option (Instr × List Byte) :=
  (takeInt bs).map fun v => (.clear v.1, v.2)

def takeSetPixel (bs : List Byte) : Option (Instr × List Byte) :=
  (takeInt bs).bind fun b => (takeInt b.2).bind fun x => (takeInt x.2).bind fun y =>
    (takeInt y.2).map fun color => (.setPixel b.1 x.1 y.1 color.1, color.2)

def takeFillRect (bs : List Byte) : Option (Instr × List Byte) :=
  (takeInt bs).bind fun b => (takeInt b.2).bind fun x => (takeInt x.2).bind fun y =>
    (takeInt y.2).bind fun w => (takeInt w.2).bind fun h =>
      (takeInt h.2).map fun color => (.fillRect b.1 x.1 y.1 w.1 h.1 color.1, color.2)

def takeFill (bs : List Byte) : Option (Instr × List Byte) :=
  (takeInt bs).bind fun b => (takeInt b.2).map fun color => (.fill b.1 color.1, color.2)

def takeBlit (bs : List Byte) : Option (Instr × List Byte) :=
  (takeInt bs).bind fun b => (takeSource b.2).bind fun src => (takeInt src.2).bind fun x =>
    (takeInt x.2).bind fun y => (takeInt y.2).bind fun w =>
      (takeInt w.2).map fun h => (.blit b.1 src.1 x.1 y.1 w.1 h.1, h.2)

def takeStext (bs : List Byte) : Option (Instr × List Byte) :=
  (takeInt bs).bind fun b => (takeText b.2).bind fun text => (takeInt text.2).bind fun x =>
    (takeInt x.2).bind fun y => (takeInt y.2).bind fun scale =>
      (takeInt scale.2).map fun color => (.stext b.1 text.1 x.1 y.1 scale.1 color.1, color.2)

def takeAutofit (bs : List Byte) : Option (Instr × List Byte) :=
  (takeInt bs).bind fun b => (takeText b.2).bind fun text => (takeInt text.2).bind fun x =>
    (takeInt x.2).bind fun y => (takeInt y.2).bind fun color => (takeCap color.2).bind fun cap =>
      (takeBool cap.2).bind fun center =>
        (takeBool center.2).map fun cv =>
          (.autofit b.1 text.1 x.1 y.1 color.1 cap.1 center.1 cv.1, cv.2)

/-- An operand reader's answer, with the refusal's name. -/
def orBadOperands (mnemonic : String) : Option (Instr × List Byte) → Except DecodeError (Instr × List Byte)
  | some p => .ok p
  | none => .error (.badOperands mnemonic)

/-! ### The decoder -/

/-- Reads one instruction from the front of a byte list. `fullCtrl` is the command slot's form: `some c` in the slot of the
full-mode control write, where the byte `c` = FULL_CTRL_CMD stands for CMD_FULL_CTRL (R112; DESIGN CHOICE,
log entry 10); `none` everywhere else. -/
def decode (fullCtrl : Option Byte) : List Byte → Except DecodeError (Instr × List Byte)
  | [] => .error .noCode
  | c :: bs =>
    if fullCtrl = some c then .ok (.cmdFullCtrl, bs)
    else if c = 0x80#8 then orBadOperands "INIT" (takeInit bs)
    else if c = 0x81#8 then orBadOperands "SETWINDOW" (takeSetWindow bs)
    else if c = 0x82#8 then orBadOperands "SETCURSOR" (takeSetCursor bs)
    else if c = 0x83#8 then .ok (.turnOn, bs)
    else if c = 0x84#8 then orBadOperands "DISPLAY" (takeDisplay bs)
    else if c = 0x85#8 then orBadOperands "DISPLAYL" (takeDisplayL bs)
    else if c = 0x86#8 then orBadOperands "CLEAR" (takeClear bs)
    else if c = 0x87#8 then .ok (.sleep, bs)
    else if c = 0x90#8 then orBadOperands "SETPIXEL" (takeSetPixel bs)
    else if c = 0x91#8 then orBadOperands "FILLRECT" (takeFillRect bs)
    else if c = 0x92#8 then orBadOperands "FILL" (takeFill bs)
    else if c = 0x93#8 then orBadOperands "BLIT" (takeBlit bs)
    else if c = 0xA0#8 then orBadOperands "STEXT" (takeStext bs)
    else if c = 0xA1#8 then orBadOperands "AUTOFIT" (takeAutofit bs)
    else if c = 0x12#8 then .ok (.cmdSwReset, bs)
    else if c = 0x11#8 then .ok (.cmdDataEntry, bs)
    else if c = 0x44#8 then orBadOperands "CMD_WINDOW_X"
      ((takeByte bs).bind fun xs => (takeByte xs.2).map fun xe => (.cmdWindowX xs.1 xe.1, xe.2))
    else if c = 0x45#8 then orBadOperands "CMD_WINDOW_Y"
      ((takeHalf bs).bind fun ys => (takeHalf ys.2).map fun ye => (.cmdWindowY ys.1 ye.1, ye.2))
    else if c = 0x4E#8 then orBadOperands "CMD_CURSOR_X" ((takeByte bs).map fun x => (.cmdCursorX x.1, x.2))
    else if c = 0x4F#8 then orBadOperands "CMD_CURSOR_Y" ((takeHalf bs).map fun y => (.cmdCursorY y.1, y.2))
    else if c = 0x24#8 then orBadOperands "CMD_WRITE_RAM" ((takeRamSource bs).map fun r => (.cmdWriteRam r.1, r.2))
    else if c = 0x32#8 then .ok (.cmdWriteLut, bs)
    else if c = 0x37#8 then .ok (.cmdDisplayOption, bs)
    else if c = 0x3C#8 then .ok (.cmdBorder, bs)
    else if c = 0x22#8 then .ok (.cmdUpdateCtrl, bs)
    else if c = 0x20#8 then .ok (.cmdActivate, bs)
    else if c = 0x10#8 then .ok (.cmdDeepSleep, bs)
    else .error (.unknownCode c)

/-- A host request frame: a code of R114 with exactly its operands. A bus command's code is refused (R116a, R136);
so is a frame with operands missing or bytes left over (DEDUCED, log entry 8). -/
def decodeFrame (frame : List Byte) : Except DecodeError Instr :=
  match decode none frame with
  | .error e => .error e
  | .ok (i, []) => if i.isRequest then .ok i else .error (.notARequest (frame.headD 0#8))
  | .ok (i, _ :: _) => if i.isRequest then .error (.trailing "request") else .error (.notARequest (frame.headD 0#8))

/-! ### The encoder -/

/-- The code byte of an instruction (R114, R100 to R113). `fullCmd` is the configuration's FULL_CTRL_CMD (R112). -/
def codeOf (fullCmd : Byte) : Instr → Byte
  | .init _ => 0x80#8
  | .setWindow _ _ _ _ => 0x81#8
  | .setCursor _ _ => 0x82#8
  | .turnOn => 0x83#8
  | .display _ => 0x84#8
  | .displayL _ => 0x85#8
  | .clear _ => 0x86#8
  | .sleep => 0x87#8
  | .setPixel _ _ _ _ => 0x90#8
  | .fillRect _ _ _ _ _ _ => 0x91#8
  | .fill _ _ => 0x92#8
  | .blit _ _ _ _ _ _ => 0x93#8
  | .stext _ _ _ _ _ _ => 0xA0#8
  | .autofit _ _ _ _ _ _ _ _ => 0xA1#8
  | .cmdSwReset => 0x12#8
  | .cmdDataEntry => 0x11#8
  | .cmdWindowX _ _ => 0x44#8
  | .cmdWindowY _ _ => 0x45#8
  | .cmdCursorX _ => 0x4E#8
  | .cmdCursorY _ => 0x4F#8
  | .cmdWriteRam _ => 0x24#8
  | .cmdWriteLut => 0x32#8
  | .cmdDisplayOption => 0x37#8
  | .cmdBorder => 0x3C#8
  | .cmdUpdateCtrl => 0x22#8
  | .cmdActivate => 0x20#8
  | .cmdDeepSleep => 0x10#8
  | .cmdFullCtrl => fullCmd

/-- The fourteen operation codes, in the order of R114. -/
def requestCodes : List Byte :=
  [0x80#8, 0x81#8, 0x82#8, 0x83#8, 0x84#8, 0x85#8, 0x86#8, 0x87#8, 0x90#8, 0x91#8, 0x92#8, 0x93#8, 0xA0#8, 0xA1#8]

/-- The operand bytes of an instruction, in the order of the table. -/
def operandBytes : Instr → List Byte
  | .init mode => encodeInt mode
  | .setWindow xs ys xe ye => encodeInt xs ++ encodeInt ys ++ encodeInt xe ++ encodeInt ye
  | .setCursor x y => encodeInt x ++ encodeInt y
  | .turnOn => []
  | .display b => encodeInt b
  | .displayL b => encodeInt b
  | .clear v => encodeInt v
  | .sleep => []
  | .setPixel b x y color => encodeInt b ++ encodeInt x ++ encodeInt y ++ encodeInt color
  | .fillRect b x y w h color =>
      encodeInt b ++ encodeInt x ++ encodeInt y ++ encodeInt w ++ encodeInt h ++ encodeInt color
  | .fill b color => encodeInt b ++ encodeInt color
  | .blit b src x y w h =>
      encodeInt b ++ encodeSource src ++ encodeInt x ++ encodeInt y ++ encodeInt w ++ encodeInt h
  | .stext b text x y scale color =>
      encodeInt b ++ encodeText text ++ encodeInt x ++ encodeInt y ++ encodeInt scale ++ encodeInt color
  | .autofit b text x y color cap center cv =>
      encodeInt b ++ encodeText text ++ encodeInt x ++ encodeInt y ++ encodeInt color ++ encodeCap cap
        ++ encodeBool center ++ encodeBool cv
  | .cmdSwReset => []
  | .cmdDataEntry => []
  | .cmdWindowX xs xe => [xs, xe]
  | .cmdWindowY ys ye => encodeHalf ys ++ encodeHalf ye
  | .cmdCursorX x => [x]
  | .cmdCursorY y => encodeHalf y
  | .cmdWriteRam src => encodeRamSource src
  | .cmdWriteLut => []
  | .cmdDisplayOption => []
  | .cmdBorder => []
  | .cmdUpdateCtrl => []
  | .cmdActivate => []
  | .cmdDeepSleep => []
  | .cmdFullCtrl => []

/-- The bytes of an instruction: its code byte, then its operands (R114). -/
def encode (fullCmd : Byte) (i : Instr) : List Byte :=
  codeOf fullCmd i :: operandBytes i

/-! ### The opcode table's words -/

/-- The low `n` bytes of `w`, least significant first. -/
def leBytes : Nat → Nat → List Byte
  | 0, _ => []
  | n + 1, w => BitVec.ofNat 8 w :: leBytes n (w / 256)

/-- More zero bytes than any instruction whose operand bits are all zero has. -/
def zeroTail : List Byte := List.replicate 64 0#8

/-- The bytes of an instruction whose table bits are `w`, all its further bits zero. -/
def tableBytes (nbits w : Nat) : List Byte :=
  leBytes (nbits / 8) w ++ zeroTail

/-- The instruction the decoder reads from a word of the opcode table. -/
def decodeTableWord (nbits w : Nat) : Option Instr :=
  match decode none (tableBytes nbits w) with
  | .ok (i, _) => some i
  | .error _ => none

/-- Exactly the bytes of the instruction at the front of `bs` (all of `bs` where the decoder refuses). -/
def frameOf (bs : List Byte) : List Byte :=
  match decode none bs with
  | .ok (_, rest) => bs.take (bs.length - rest.length)
  | .error _ => bs

end Sys2Proof
end

