-- ==== Sys2Proof/Machine/State.lean ====
section
/-!
DEFINITION. The state of the engine as plain data (10_state.md), the bus events of its output (R11), the sequencer's
position (R34), the reasons a step can stop, and the state after the engine's reset (R41, R250).
-/

namespace Sys2Proof.Machine

/-! ### Protocol state -/

/-- S.PHASE (R20). -/
inductive Phase where
  | uninitialized
  | resetting
  | softwareReset
  | modeConfigured
  | idle
  | refreshing
  | sleeping
  deriving DecidableEq, Repr

/-- S.MODE (R21). -/
inductive Mode where
  | none
  | fullRefresh
  | partialRefresh
  deriving DecidableEq, Repr

/-- S.FAULT, a set of two sticky flags (R22). -/
structure FaultFlags where
  timeout : Bool
  seq : Bool
  deriving DecidableEq, Repr

/-- A value of S.WIN (R23): the window as sent. -/
structure Window where
  xs : Byte
  ys : Half
  xe : Byte
  ye : Half
  deriving DecidableEq, Repr

/-- A value of S.CUR (R24): the cursor as sent. -/
structure Cursor where
  x : Byte
  y : Half
  deriving DecidableEq, Repr

/-! ### Output -/

/-- The named durations (R6, R11); a delay carries no number. -/
inductive DelayName where
  | rstLow
  | rstHigh
  | poll
  deriving DecidableEq, Repr

/-- The bus events (R11). -/
inductive Event where
  | rstLow
  | rstHigh
  | delay (name : DelayName)
  | cmd (c : Byte)
  | data (bs : List Byte)
  | poll (r : Answer)
  deriving DecidableEq, Repr

/-- RES.STATUS (R30), codes 0 to 5 in this order. -/
inductive Status where
  | ok
  | unsupportedMode
  | timeout
  | phaseRefused
  | oobRejected
  | badRequest
  deriving DecidableEq, Repr

/-- The result registers (R30). -/
structure Results where
  status : Status
  scale : Nat
  lines : List (List Byte)
  deriving DecidableEq, Repr

/-! ### The sequencer -/

/-- One item of an operation's sequence (R34): a bus output, a wait, or a state write that stands between two events
(R153). -/
inductive SeqOp where
  /-- emit these events -/
  | emit (es : List Event)
  /-- `waitUntilIdle` (R134) -/
  | wait
  /-- S.PHASE <- p -/
  | phase (p : Phase)
  /-- S.MODE <- m -/
  | mode (m : Mode)
  /-- S.WIN <- none; S.CUR <- none (R140, R251) -/
  | forget
  /-- S.WIN <- w -/
  | win (w : Window)
  /-- S.CUR <- c -/
  | cur (c : Cursor)
  /-- RES.STATUS <- st -/
  | status (st : Status)
  deriving DecidableEq, Repr

/-- SEQ (R34): idle, or in an operation whose sequence still to run is `rest`; `samples` is how many busy samples
the wait at the head of `rest` has taken (R134's n, R233). -/
inductive Seq where
  | idle
  | active (samples : Nat) (rest : List SeqOp)
  deriving DecidableEq, Repr

/-! ### Memory -/

/-- A frame buffer: the bytes written since reset, as (index, byte) pairs, indices strictly rising. An index not listed
was never written (R41; log entry 3). -/
abbrev Memory := List Host.Cell

/-- The canonical form: indices strictly rising. -/
abbrev Memory.wf (m : Memory) : Prop :=
  List.Pairwise (fun a b => a.1 < b.1) m

/-- Every listed index lies below `n`. -/
abbrev Memory.within (n : Nat) (m : Memory) : Prop :=
  ∀ c ∈ m, c.1 < n

/-! ### The whole state -/

/-- Everything the spec gives the engine (10_state.md), the configuration it is built with (R31), and the inputs it is
going to meet. -/
structure State where
  /-- `Cfg`, an argument of the step (R31); no operation writes it. -/
  cfg : Cfg
  /-- S.PHASE -/
  phase : Phase
  /-- S.MODE -/
  mode : Mode
  /-- S.FAULT -/
  fault : FaultFlags
  /-- S.WIN -/
  win : Option Window
  /-- S.CUR -/
  cur : Option Cursor
  /-- FB[P] -/
  fbP : Memory
  /-- FB[L] -/
  fbL : Memory
  /-- TRACE, oldest event first -/
  trace : List Event
  /-- RES -/
  res : Results
  /-- A[i]: the request in progress with its operands (R33) -/
  latch : Option Instr
  /-- SEQ -/
  seq : Seq
  /-- Model's own: the host's requests to come, one frame each, oldest first (log entry 5). -/
  port : List (List Byte)
  /-- Model's own: the busy answers the environment has settled, next first (log entry 4). -/
  answers : List Answer
  /-- Model's own: how many free busy answers were drawn so far (log entry 4). -/
  draws : Nat
  deriving DecidableEq, Repr

/-- The machine never stops with a fault: every abnormal ending of R220 is a next state with a status code and, for two
of them, a sticky flag. No constructor. -/
inductive Fault where
  deriving DecidableEq, Repr

/-- Why the machine refuses to go on. -/
inductive Refusal where
  /-- Raised by `exec` for an instruction that has no meaning yet. Safe. No arm raises it. -/
  | notModelled (mnemonic : String)
  /-- Raised by `step` when the configuration breaks a constraint of R6: "refused; no rule gives it a meaning". Safe
  (DEDUCED, log entry 16). -/
  | illegalConfig
  deriving DecidableEq, Repr

/-- The engine right after its reset, built with configuration `c` (R41, R250). RES.SCALE and RES.LINES, which the spec
leaves unspecified, are 0 and [] (DESIGN CHOICE, log entry 2); `draws` is 0 (DESIGN CHOICE, log entry 4). Whether the reset is
power-on or a reset input is in no source (R250, N24): it is the start state only, and no step and no input brings a running engine
back to it (DESIGN CHOICE, log entry 18). -/
def State.resetWith (c : Cfg) : State where
  cfg := c
  phase := .uninitialized
  mode := .none
  fault := ⟨false, false⟩
  win := none
  cur := none
  fbP := []
  fbL := []
  trace := []
  res := ⟨.ok, 0, []⟩
  latch := none
  seq := .idle
  port := []
  answers := []
  draws := 0

/-- The engine after reset in the spec's reference build (DESIGN CHOICE, log entry 1; its three durations: log entry 17; what can cause a reset:
log entry 18). -/
def State.reset : State :=
  State.resetWith Config.reference

end Sys2Proof.Machine
end

