-- ==== Sys2Proof/Machine/Flags.lean ====
section
/-!
DEFINITION. The flag-like state (R35): the two sticky fault flags (R22) and RES.STATUS (R30), and what each ending of an
operation writes of them (R220).
-/

namespace Sys2Proof.Machine

/-- RES.STATUS <- st. -/
def State.setStatus (s : State) (st : Status) : State :=
  { s with res := { s.res with status := st } }

/-- S.FAULT <- S.FAULT ∪ TIMEOUT (R222). -/
def State.flagTimeout (s : State) : State :=
  { s with fault := { s.fault with timeout := true } }

/-- S.FAULT <- S.FAULT ∪ SEQ (R223). -/
def State.flagSeq (s : State) : State :=
  { s with fault := { s.fault with seq := true } }

/-- The status of a drawing operation that ran to its end: OK if every pixel lay inside, else OOB_REJECTED (R65, R224). -/
def drawStatus (allInside : Bool) : Status :=
  if allInside then .ok else .oobRejected

/-- The code of a status (R30). -/
def Status.code : Status → Nat
  | .ok => 0
  | .unsupportedMode => 1
  | .timeout => 2
  | .phaseRefused => 3
  | .oobRejected => 4
  | .badRequest => 5

/-- Whether S.FAULT is empty (R22). -/
def State.faultFree (s : State) : Bool :=
  !s.fault.timeout && !s.fault.seq

end Sys2Proof.Machine
end

