-- ==== Sys2Proof/Machine/Operands.lean ====
section
/-!
DEFINITION. Operand forms: the constraints a configuration must meet (R6), the geometry derived from it (R7), the operand checks made
when a request arrives (R225), and the operand assembly that turns integers into bus bytes (R115).
-/

namespace Sys2Proof

/-! ### The configuration's constraints and geometry -/

/-- The constraints of R6. -/
def Cfg.legal (c : Cfg) : Bool :=
  decide (0 < c.wPx ∧ c.wPx % 8 = 0 ∧ 0 < c.hPx ∧ 0 < c.txtW ∧ 0 < c.txtH ∧ c.modeFull ≠ c.modePartial ∧
    c.xOffset % 8 = 0 ∧ c.fullCtrlCmd ∈ Config.commandBytes ∧ Config.lutUsed ≤ c.lut.length ∧
    c.optNzIndex < Config.optLen ∧ c.optNzByte ≠ 0#8 ∧ c.busyTimeout ≠ some 0 ∧ c.font.length = 256 ∧ 0 < c.txtMax)

/-- WB, bytes per native row (R6). -/
def Cfg.wb (c : Cfg) : Nat := c.wPx / 8

/-- FB_LEN, bytes per frame buffer (R6, R7). -/
def Cfg.fbLen (c : Cfg) : Nat := c.wb * c.hPx

/-- width(b) (R7, R65). -/
def Cfg.width (c : Cfg) : Buf → Nat
  | .portrait => c.wPx
  | .landscape => c.hPx

/-- height(b) (R7, R65). -/
def Cfg.height (c : Cfg) : Buf → Nat
  | .portrait => c.hPx
  | .landscape => c.wPx

/-- FONT(ch, col, row) (R10, R190). -/
def Cfg.ink (c : Cfg) (ch : Byte) (col row : Nat) : Bool :=
  (c.font.getD ch.toNat 0#64).getLsbD (8 * row + col)

/-- LUT[k] (R10). -/
def Cfg.lutByte (c : Cfg) (k : Nat) : Byte :=
  c.lut.getD k 0#8

end Sys2Proof

namespace Sys2Proof.Machine

/-! ### Operand checks (R225) -/

/-- An integer operand the port accepts (R9). -/
def inRange (v : Int) : Bool :=
  decide (-(2 ^ 31) ≤ v) && decide (v ≤ 2 ^ 31 - 1)

/-- A buffer selector, 0 or 1 (R114). -/
def isSelector (b : Int) : Bool :=
  decide (b = 0) || decide (b = 1)

/-- A colour, 0 or 1 (R64, R114). -/
def isColor (color : Int) : Bool :=
  decide (color = 0) || decide (color = 1)

/-- A byte operand, 0 to 255 (R149). -/
def isByte (v : Int) : Bool :=
  decide (0 ≤ v) && decide (v ≤ 255)

/-- A text operand the port accepts (R192). -/
def isText (c : Cfg) (text : List Byte) : Bool :=
  decide (text.length ≤ c.txtMax)

/-- The checks of R225 that are made when a request arrives. The values of a pixel source are checked during the blit. Bus
commands are no requests and carry typed bytes. -/
def accepts (c : Cfg) : Instr → Bool
  | .init mode => inRange mode
  | .setWindow xs ys xe ye => inRange xs && inRange ys && inRange xe && inRange ye
  | .setCursor x y => inRange x && inRange y
  | .turnOn => true
  | .display b => isSelector b
  | .displayL b => isSelector b
  | .clear v => isByte v
  | .sleep => true
  | .setPixel b x y color => isSelector b && inRange x && inRange y && isColor color
  | .fillRect b x y w h color => isSelector b && inRange x && inRange y && inRange w && inRange h && isColor color
  | .fill b color => isSelector b && isColor color
  | .blit b _ x y w h => isSelector b && inRange x && inRange y && inRange w && inRange h
  | .stext b text x y scale color =>
      isSelector b && isText c text && inRange x && inRange y && inRange scale && isColor color
  | .autofit b text x y color cap _ _ =>
      isSelector b && isText c text && inRange x && inRange y && isColor color && cap.all inRange
  | .cmdSwReset => true
  | .cmdDataEntry => true
  | .cmdWindowX _ _ => true
  | .cmdWindowY _ _ => true
  | .cmdCursorX _ => true
  | .cmdCursorY _ => true
  | .cmdWriteRam _ => true
  | .cmdWriteLut => true
  | .cmdDisplayOption => true
  | .cmdBorder => true
  | .cmdUpdateCtrl => true
  | .cmdActivate => true
  | .cmdDeepSleep => true
  | .cmdFullCtrl => true

/-- The buffer a selector names: 0 is P, 1 is L (R114). -/
def bufOf (b : Int) : Buf :=
  if b = 1 then .landscape else .portrait

/-- The bit a colour operand names: 0 is ink, 1 is background (R64). -/
def colorBit (color : Int) : Bool :=
  decide (color = 1)

/-! ### Operand assembly (R115) -/

/-- `v & 0xFF` (R9). -/
def lowByte (v : Int) : Byte :=
  BitVec.ofInt 8 v

/-- A window X byte, `(x >> 3) & 0xFF` (R115a). -/
def windowX (x : Int) : Byte :=
  lowByte (x / 8)

/-- A 16-bit value, `v & 0xFFFF` (R115b, R144). -/
def half (v : Int) : Half :=
  BitVec.ofInt 16 v

/-- `v[7:0]`, the byte sent first (R68a). -/
def halfLow (v : Half) : Byte :=
  v.extractLsb' 0 8

/-- `v[15:8]`, the byte sent second (R68a). -/
def halfHigh (v : Half) : Byte :=
  v.extractLsb' 8 8

/-- The window S.WIN records for `setWindow(xs, ys, xe, ye)` (R23, R144). -/
def windowOf (xs ys xe ye : Int) : Window :=
  ⟨windowX xs, half ys, windowX xe, half ye⟩

/-- The cursor S.CUR records for `setCursor(x, y)` (R24, R145). -/
def cursorOf (x y : Int) : Cursor :=
  ⟨lowByte x, half y⟩

end Sys2Proof.Machine
end

