-- ==== Sys2Proof/Machine/Ops.lean ====
section
/-!
DEFINITION. The named operations the meanings are built from: frame-buffer memory (R60, R70), the bus output and the busy
input (R11, R130 to R134), the abnormal endings (R220 to R230; the engine's only kind of exception: no handler, nothing
saved), and the sequencer that runs an operation's sequence (R34).
-/

namespace Sys2Proof.Machine

/-! ### Frame-buffer memory -/

/-- The byte written last at index `k`, if any was written since reset. -/
def Memory.find (k : Nat) : Memory → Option Byte
  | [] => none
  | c :: m => if c.1 = k then some c.2 else Memory.find k m

/-- MemWrite of one byte (R10); keeps the indices strictly rising. -/
def Memory.write (k : Nat) (v : Byte) : Memory → Memory
  | [] => [(k, v)]
  | c :: m =>
    if k < c.1 then (k, v) :: c :: m
    else if k = c.1 then (k, v) :: m
    else c :: Memory.write k v m

/-- Every index below `n` written with the same byte (R172). -/
def Memory.uniform (n : Nat) (v : Byte) : Memory :=
  (List.range n).map fun k => (k, v)

/-- MemRead of one byte of buffer `b` (R10): what was written, or the arbitrary value the byte has had since reset (R41). -/
def memByte (b : Buf) (k : Nat) (m : Memory) : Byte :=
  (Memory.find k m).getD (Config.fbReset b k)

/-- FB[b]. -/
def State.mem (s : State) : Buf → Memory
  | .portrait => s.fbP
  | .landscape => s.fbL

/-- FB[b] <- m. -/
def State.setMem (s : State) (b : Buf) (m : Memory) : State :=
  match b with
  | .portrait => { s with fbP := m }
  | .landscape => { s with fbL := m }

/-- FB[b][k]. -/
def State.readByte (s : State) (b : Buf) (k : Nat) : Byte :=
  memByte b k (s.mem b)

/-! ### The bus (R130 to R134) -/

/-- `emit`: append events to TRACE (R10). -/
def State.emit (s : State) (es : List Event) : State :=
  { s with trace := s.trace ++ es }

/-- `reset()`: the reset pulse towards the controller (R130). -/
def resetPulse : List Event :=
  [.rstLow, .delay .rstLow, .rstHigh, .delay .rstHigh]

/-- `sendCommand(c)` (R131). -/
def sendCommand (c : Byte) : Event :=
  .cmd c

/-- `sendData(b)`: one byte, one transaction (R132, R94). -/
def sendData (b : Byte) : Event :=
  .data [b]

/-- `sendData(bs)`: one run, one transaction (R133). -/
def sendRun (bs : List Byte) : Event :=
  .data bs

/-- The answer the next busy sample will get: the environment's next settled answer, else a free draw (R32, R134). -/
def State.nextAnswer (s : State) : Answer :=
  match s.answers with
  | r :: _ => r
  | [] => Config.freeAnswer s.draws

/-- How many free draws were made after one more sample: one more if no settled answer was left. -/
def State.nextDraws (s : State) : Nat :=
  match s.answers with
  | _ :: _ => s.draws
  | [] => s.draws + 1

/-- One busy sample is taken from the environment: its answer is used up. -/
def State.consumeAnswer (s : State) : State :=
  { s with answers := s.answers.tail, draws := s.nextDraws }

/-- `busy()` and `emit Poll(r)` (R134). -/
def State.pollWith (s : State) (r : Answer) : State :=
  s.consumeAnswer.emit [.poll r]

/-- Whether a wait that has taken `n` samples is exhausted (R134). -/
def timedOut (c : Cfg) (n : Nat) : Bool :=
  match c.busyTimeout with
  | none => false
  | some t => decide (t ≤ n)

/-! ### The abnormal endings (R220): taking one ends the operation and saves nothing (R229) -/

/-- The operation is over: SEQ idle, operands dead (R33, R34). -/
def State.endOperation (s : State) : State :=
  { s with seq := .idle, latch := none }

/-- BadRequest (R225): only RES.STATUS changes. -/
def State.badRequest (s : State) : State :=
  s.setStatus .badRequest

/-- UnsupportedMode (R143, R221): only RES.STATUS changes. -/
def State.unsupportedMode (s : State) : State :=
  s.setStatus .unsupportedMode

/-- PhaseRefused (R151, R223): the SEQ flag and RES.STATUS. -/
def State.phaseRefused (s : State) : State :=
  s.flagSeq.setStatus .phaseRefused

/-- HardwareTimeout (R222): the TIMEOUT flag and RES.STATUS; the operation ends where it is. -/
def State.hardwareTimeout (s : State) : State :=
  (s.flagTimeout.setStatus .timeout).endOperation

/-! ### The sequencer (R34) -/

/-- An item of a sequence that is not a wait. -/
def applyOp (s : State) : SeqOp → State
  | .emit es => s.emit es
  | .wait => s
  | .phase p => { s with phase := p }
  | .mode m => { s with mode := m }
  | .forget => { s with win := none, cur := none }
  | .win w => { s with win := some w }
  | .cur c => { s with cur := some c }
  | .status st => s.setStatus st

/-- Runs a sequence until it ends or until a busy sample answers Busy. At a wait one sample is taken: Idle goes on; Busy ends the
operation with HardwareTimeout if the samples are used up, else SEQ stays at the wait with one sample more counted
(R134). `n` is the number of samples the wait at the head has already taken. -/
def runSeq (n : Nat) : List SeqOp → State → State
  | [], s => s.endOperation
  | .wait :: rest, s =>
    match s.nextAnswer with
    | .idle => runSeq 0 rest (s.pollWith .idle)
    | .busy =>
      if timedOut s.cfg (n + 1) then (s.pollWith .busy).hardwareTimeout
      else { (s.pollWith .busy).emit [.delay .poll] with seq := .active (n + 1) (.wait :: rest) }
  | .emit es :: rest, s => runSeq 0 rest (applyOp s (.emit es))
  | .phase p :: rest, s => runSeq 0 rest (applyOp s (.phase p))
  | .mode m :: rest, s => runSeq 0 rest (applyOp s (.mode m))
  | .forget :: rest, s => runSeq 0 rest (applyOp s .forget)
  | .win w :: rest, s => runSeq 0 rest (applyOp s (.win w))
  | .cur c :: rest, s => runSeq 0 rest (applyOp s (.cur c))
  | .status st :: rest, s => runSeq 0 rest (applyOp s (.status st))

/-- An accepted operation starts: its operands are latched (R33) and its sequence runs, ending with RES.STATUS <- OK. -/
def State.startOp (s : State) (i : Instr) (ops : List SeqOp) : State :=
  runSeq 0 (ops ++ [.status .ok]) { s with latch := some i }

/-- The protocol operations other than `init` (R151, R228): BadRequest first, then the phase check, then the sequence. -/
def State.protocolOp (s : State) (i : Instr) (ops : List SeqOp) : State :=
  if accepts s.cfg i then
    if s.phase = .idle then s.startOp i ops else s.phaseRefused
  else s.badRequest

/-! ### Fetching a request -/

/-- The host's next request is taken from the port. -/
def State.popPort (s : State) : State :=
  { s with port := s.port.tail }

/-- The state with `frame` as the host's next request and no operation in progress. -/
def State.placeRequest (s : State) (frame : List Byte) : State :=
  { s with port := frame :: s.port, seq := .idle }

/-- The state with the sequencer standing at the sequence `ops`. -/
def State.placeSequence (s : State) (ops : List SeqOp) : State :=
  { s with seq := .active 0 ops }

end Sys2Proof.Machine
end

