-- ==== Sys2Proof/Machine/Bus.lean ====
section
/-!
DEFINITION. The controller commands (R100 to R113): for each, the events the engine sends and whether a wait follows; and the
meaning of each BUS_COMMAND row run by itself, as the sequencer runs it when SEQ stands at it (R34; log entry 6). What a
command does inside the controller is out of scope (R4e).
-/

namespace Sys2Proof.Machine

/-- A command with its register parameters, each its own transaction (R94). -/
def register (c : Byte) (bs : List Byte) : List Event :=
  sendCommand c :: bs.map sendData

/-! ### The commands' sequences -/

/-- 0x12, software reset, always followed by a wait (R100). -/
def swResetSeq : List SeqOp := [.emit (register 0x12#8 []), .wait]

/-- 0x11, data-entry mode (R101). -/
def dataEntrySeq (c : Cfg) : List SeqOp := [.emit (register 0x11#8 [c.dataEntryByte])]

/-- 0x44, window X (R102). -/
def windowXSeq (xs xe : Byte) : List SeqOp := [.emit (register 0x44#8 [xs, xe])]

/-- 0x45, window Y, low byte before high byte, start before end (R103). -/
def windowYSeq (ys ye : Half) : List SeqOp :=
  [.emit (register 0x45#8 [halfLow ys, halfHigh ys, halfLow ye, halfHigh ye])]

/-- 0x4E, cursor X (R104). -/
def cursorXSeq (x : Byte) : List SeqOp := [.emit (register 0x4E#8 [x])]

/-- 0x4F, cursor Y (R105). -/
def cursorYSeq (y : Half) : List SeqOp := [.emit (register 0x4F#8 [halfLow y, halfHigh y])]

/-- The bytes of a buffer in ascending index order (R68c, R147). -/
def bufferBytes (s : State) (b : Buf) : List Byte :=
  (List.range s.cfg.fbLen).map (s.readByte b)

/-- The source index of the byte at stream position `p` = j × WB + i of `displayLandscape`: (WB − 1 − i) × H_PX + j (R148). -/
def landscapeIndex (c : Cfg) (p : Nat) : Nat :=
  (c.wb - 1 - p % c.wb) * c.hPx + p / c.wb

/-- The bytes of a buffer in the order of the landscape transform: row `j` outer, byte column `i` inner (R148). -/
def landscapeBytes (s : State) (b : Buf) : List Byte :=
  (List.range s.cfg.fbLen).map fun p => s.readByte b (landscapeIndex s.cfg p)

/-- The transactions after 0x24: one run for `display` and `clear`, single bytes for `displayLandscape` (R94, R106). -/
def ramStream (s : State) : RamSource → List Event
  | .verbatim b => [sendRun (bufferBytes s b)]
  | .rotated b => (landscapeBytes s b).map sendData
  | .constant v => [sendRun (List.replicate s.cfg.fbLen v)]

/-- 0x24, write RAM (R106). The buffer is read when the command starts: nothing can write it before the stream ends (R77). -/
def writeRamSeq (s : State) (src : RamSource) : List SeqOp := [.emit (sendCommand 0x24#8 :: ramStream s src)]

/-- 0x32, waveform LUT: exactly the first 153 bytes, then a wait (R107, R152). -/
def writeLutSeq (c : Cfg) : List SeqOp :=
  [.emit (register 0x32#8 ((List.range Config.lutUsed).map c.lutByte)), .wait]

/-- 0x37, display option: ten bytes, zero but for one (R108). -/
def displayOptionSeq (c : Cfg) : List SeqOp :=
  [.emit (register 0x37#8
    ((List.range Config.optLen).map fun k => if k = c.optNzIndex then c.optNzByte else 0x00#8))]

/-- 0x3C, border (R109). -/
def borderSeq (c : Cfg) : List SeqOp := [.emit (register 0x3C#8 [c.borderByte])]

/-- 0x22, update control (R110). -/
def updateCtrlSeq (c : Cfg) : List SeqOp := [.emit (register 0x22#8 [c.updateCtrlByte])]

/-- 0x20, activate refresh, always followed by a wait (R111). -/
def activateSeq : List SeqOp := [.emit (register 0x20#8 []), .wait]

/-- 0x10, deep sleep (R113). -/
def deepSleepSeq (c : Cfg) : List SeqOp := [.emit (register 0x10#8 [c.sleepModeByte])]

/-- The full-mode control write (R112). -/
def fullCtrlSeq (c : Cfg) : List SeqOp := [.emit (register c.fullCtrlCmd [c.fullCtrlByte])]

/-- The sequence of a bus command; a host request is none. -/
def busSeq (s : State) : Instr → List SeqOp
  | .init _ => []
  | .setWindow _ _ _ _ => []
  | .setCursor _ _ => []
  | .turnOn => []
  | .display _ => []
  | .displayL _ => []
  | .clear _ => []
  | .sleep => []
  | .setPixel _ _ _ _ => []
  | .fillRect _ _ _ _ _ _ => []
  | .fill _ _ => []
  | .blit _ _ _ _ _ _ => []
  | .stext _ _ _ _ _ _ => []
  | .autofit _ _ _ _ _ _ _ _ => []
  | .cmdSwReset => swResetSeq
  | .cmdDataEntry => dataEntrySeq s.cfg
  | .cmdWindowX xs xe => windowXSeq xs xe
  | .cmdWindowY ys ye => windowYSeq ys ye
  | .cmdCursorX x => cursorXSeq x
  | .cmdCursorY y => cursorYSeq y
  | .cmdWriteRam src => writeRamSeq s src
  | .cmdWriteLut => writeLutSeq s.cfg
  | .cmdDisplayOption => displayOptionSeq s.cfg
  | .cmdBorder => borderSeq s.cfg
  | .cmdUpdateCtrl => updateCtrlSeq s.cfg
  | .cmdActivate => activateSeq
  | .cmdDeepSleep => deepSleepSeq s.cfg
  | .cmdFullCtrl => fullCtrlSeq s.cfg

/-! ### The meanings of the BUS_COMMAND rows -/

/-- CMD_SWRESET (R100). -/
def execCmdSwReset (s : State) : Host.Outcome State Fault Refusal := .next (runSeq 0 swResetSeq s)

/-- CMD_DATA_ENTRY (R101). -/
def execCmdDataEntry (s : State) : Host.Outcome State Fault Refusal := .next (runSeq 0 (dataEntrySeq s.cfg) s)

/-- CMD_WINDOW_X (R102). -/
def execCmdWindowX (xs xe : Byte) (s : State) : Host.Outcome State Fault Refusal := .next (runSeq 0 (windowXSeq xs xe) s)

/-- CMD_WINDOW_Y (R103). -/
def execCmdWindowY (ys ye : Half) (s : State) : Host.Outcome State Fault Refusal := .next (runSeq 0 (windowYSeq ys ye) s)

/-- CMD_CURSOR_X (R104). -/
def execCmdCursorX (x : Byte) (s : State) : Host.Outcome State Fault Refusal := .next (runSeq 0 (cursorXSeq x) s)

/-- CMD_CURSOR_Y (R105). -/
def execCmdCursorY (y : Half) (s : State) : Host.Outcome State Fault Refusal := .next (runSeq 0 (cursorYSeq y) s)

/-- CMD_WRITE_RAM (R106). -/
def execCmdWriteRam (src : RamSource) (s : State) : Host.Outcome State Fault Refusal := .next (runSeq 0 (writeRamSeq s src) s)

/-- CMD_WRITE_LUT (R107, R152). -/
def execCmdWriteLut (s : State) : Host.Outcome State Fault Refusal := .next (runSeq 0 (writeLutSeq s.cfg) s)

/-- CMD_DISPLAY_OPTION (R108). -/
def execCmdDisplayOption (s : State) : Host.Outcome State Fault Refusal := .next (runSeq 0 (displayOptionSeq s.cfg) s)

/-- CMD_BORDER (R109). -/
def execCmdBorder (s : State) : Host.Outcome State Fault Refusal := .next (runSeq 0 (borderSeq s.cfg) s)

/-- CMD_UPDATE_CTRL (R110). -/
def execCmdUpdateCtrl (s : State) : Host.Outcome State Fault Refusal := .next (runSeq 0 (updateCtrlSeq s.cfg) s)

/-- CMD_ACTIVATE (R111). -/
def execCmdActivate (s : State) : Host.Outcome State Fault Refusal := .next (runSeq 0 activateSeq s)

/-- CMD_DEEP_SLEEP (R113). -/
def execCmdDeepSleep (s : State) : Host.Outcome State Fault Refusal := .next (runSeq 0 (deepSleepSeq s.cfg) s)

/-- CMD_FULL_CTRL (R112). -/
def execCmdFullCtrl (s : State) : Host.Outcome State Fault Refusal := .next (runSeq 0 (fullCtrlSeq s.cfg) s)

end Sys2Proof.Machine
end

