-- ==== Sys2Proof/Machine/Protocol.lean ====
section
/-!
DEFINITION. The Controller Protocol (41_controller_protocol.md): the sequences the operations share and the meanings of the eight protocol
requests.
-/

namespace Sys2Proof.Machine

/-! ### Shared sequences -/

/-- `winSeq` (R144). -/
def winSeq (xs ys xe ye : Int) : List SeqOp :=
  windowXSeq (windowX xs) (windowX xe) ++ windowYSeq (half ys) (half ye) ++ [.win (windowOf xs ys xe ye)]

/-- `curSeq` (R145). -/
def curSeq (x y : Int) : List SeqOp :=
  cursorXSeq (lowByte x) ++ cursorYSeq (half y) ++ [.cur (cursorOf x y)]

/-- `refreshSeq` (R146). -/
def refreshSeq : List SeqOp :=
  [.phase .refreshing] ++ activateSeq ++ [.phase .idle]

/-- What `init` does in both modes (R140): the phase writes of R153 stand between the events. -/
def initPrefix (c : Cfg) : List SeqOp :=
  [.phase .resetting, .mode .none, .forget, .emit resetPulse, .phase .softwareReset] ++ swResetSeq ++ dataEntrySeq c
    ++ winSeq c.xOffset 0 c.winXe c.winYe ++ [.phase .modeConfigured]

/-- The full-refresh branch (R141) with its mode write and the end of `init` (R140). -/
def fullBranch (c : Cfg) : List SeqOp :=
  [.mode .fullRefresh] ++ fullCtrlSeq c ++ [.phase .idle]

/-- The partial-refresh branch (R142) with its mode write and the end of `init` (R140). -/
def partialBranch (c : Cfg) : List SeqOp :=
  [.mode .partialRefresh] ++ writeLutSeq c ++ displayOptionSeq c ++ borderSeq c ++ updateCtrlSeq c ++ refreshSeq

/-- The sequence of `init` in a supported mode; none for any other mode (R140, R143). -/
def initSeq (c : Cfg) (mode : Int) : Option (List SeqOp) :=
  if mode = c.modeFull then some (initPrefix c ++ fullBranch c)
  else if mode = c.modePartial then some (initPrefix c ++ partialBranch c)
  else none

/-- A picture is sent and shown: cursor to the reference point, 0x24 with the stream, refresh (R147, R148, R149). -/
def showSeq (s : State) (src : RamSource) : List SeqOp :=
  curSeq s.cfg.curX s.cfg.curY ++ writeRamSeq s src ++ refreshSeq

/-- The sequence of `sleep` (R150). -/
def sleepSeq (c : Cfg) : List SeqOp :=
  deepSleepSeq c ++ [.phase .sleeping]

/-! ### The meanings -/

/-- INIT (R140 to R143, R228): operand range, then the mode, then the sequence; accepted in every phase (R151). -/
def execInit (mode : Int) (s : State) : Host.Outcome State Fault Refusal :=
  .next (
    if accepts s.cfg (.init mode) then
      match initSeq s.cfg mode with
      | some ops => s.startOp (.init mode) ops
      | none => s.unsupportedMode
    else s.badRequest)

/-- SETWINDOW (R144). -/
def execSetWindow (xs ys xe ye : Int) (s : State) : Host.Outcome State Fault Refusal :=
  .next (s.protocolOp (.setWindow xs ys xe ye) (winSeq xs ys xe ye))

/-- SETCURSOR (R145). -/
def execSetCursor (x y : Int) (s : State) : Host.Outcome State Fault Refusal :=
  .next (s.protocolOp (.setCursor x y) (curSeq x y))

/-- TURNON (R146). -/
def execTurnOn (s : State) : Host.Outcome State Fault Refusal :=
  .next (s.protocolOp .turnOn refreshSeq)

/-- DISPLAY (R147). -/
def execDisplay (b : Int) (s : State) : Host.Outcome State Fault Refusal :=
  .next (s.protocolOp (.display b) (showSeq s (.verbatim (bufOf b))))

/-- DISPLAYL (R148). -/
def execDisplayL (b : Int) (s : State) : Host.Outcome State Fault Refusal :=
  .next (s.protocolOp (.displayL b) (showSeq s (.rotated (bufOf b))))

/-- CLEAR (R149). -/
def execClear (v : Int) (s : State) : Host.Outcome State Fault Refusal :=
  .next (s.protocolOp (.clear v) (showSeq s (.constant (lowByte v))))

/-- SLEEP (R150). -/
def execSleep (s : State) : Host.Outcome State Fault Refusal :=
  .next (s.protocolOp .sleep (sleepSeq s.cfg))

end Sys2Proof.Machine
end

