-- ==== Sys2Proof/Machine/FrameBuffer.lean ====
section
/-!
DEFINITION. The Frame Buffer Pair (20_memory.md section 2, 42_frame_buffer.md): the two packings, the pixel write, the rectangle, and the
meanings of the four buffer requests.
-/

namespace Sys2Proof.Machine

/-- `repeatUp n f x` runs `f 0`, then `f 1`, …, then `f (n - 1)`: the ascending loop of R10. -/
def repeatUp {α : Type} : Nat → (Nat → α → α) → α → α
  | 0, _, x => x
  | n + 1, f, x => f n (repeatUp n f x)

/-! ### Pixels -/

/-- Whether (x, y) lies inside buffer `b` (R65). -/
def inside (c : Cfg) (b : Buf) (x y : Int) : Bool :=
  decide (0 ≤ x) && decide (0 ≤ y) && decide (x < c.width b) && decide (y < c.height b)

/-- The byte index of pixel (x, y): Portrait y × WB + (x >> 3) (R61), Landscape (y >> 3) × LW + x (R62). -/
def pixelByte (c : Cfg) (b : Buf) (x y : Nat) : Nat :=
  match b with
  | .portrait => y * c.wb + x / 8
  | .landscape => y / 8 * c.hPx + x

/-- The bit of pixel (x, y) in its byte: Portrait 7 − (x mod 8) (R61), Landscape y mod 8 (R62). -/
def pixelBit (b : Buf) (x y : Nat) : Nat :=
  match b with
  | .portrait => 7 - x % 8
  | .landscape => y % 8

/-- `v` with bit `i` replaced by `color` (R170). -/
def replaceBit (v : Byte) (i : Nat) (color : Bool) : Byte :=
  if color then v ||| BitVec.ofNat 8 (2 ^ i) else v &&& ~~~(BitVec.ofNat 8 (2 ^ i))

/-- A buffer being drawn into, and whether every pixel so far lay inside it. -/
structure Canvas where
  mem : Memory
  allIn : Bool
  deriving DecidableEq, Repr

/-- `putPixel` (R170): a read-modify-write of one byte, or a rejected write. -/
def putPixel (c : Cfg) (b : Buf) (x y : Int) (color : Bool) (v : Canvas) : Canvas :=
  if inside c b x y then
    let k := pixelByte c b x.toNat y.toNat
    { v with mem := Memory.write k (replaceBit (memByte b k v.mem) (pixelBit b x.toNat y.toNat) color) v.mem }
  else { v with allIn := false }

/-- The observation `getPixel` (R63): `none` outside the buffer. -/
def State.getPixel (s : State) (b : Buf) (x y : Int) : Option Bool :=
  if inside s.cfg b x y then
    some ((s.readByte b (pixelByte s.cfg b x.toNat y.toNat)).getLsbD (pixelBit b x.toNat y.toNat))
  else none

/-! ### Rectangles -/

/-- Whether a w × h rectangle at (x, y) is empty or lies wholly inside buffer `b` (R171). -/
def rectInside (c : Cfg) (b : Buf) (x y w h : Int) : Bool :=
  decide (w ≤ 0) || decide (h ≤ 0)
    || (decide (0 ≤ x) && decide (0 ≤ y) && decide (x + w ≤ c.width b) && decide (y + h ≤ c.height b))

/-- How many integers lie in [lo, lo + len) and in [0, bound). -/
def clipLen (lo len : Int) (bound : Nat) : Nat :=
  (min (lo + len) bound - max lo 0).toNat

/-- `paint` at every pixel of the intersection of a rectangle with buffer `b`, row by row (R171: "how a model should
compute it when w or h is huge"; DESIGN CHOICE, log entry 11). -/
def overClip {α : Type} (c : Cfg) (b : Buf) (x y w h : Int) (paint : Int → Int → α → α) (v : α) : α :=
  repeatUp (clipLen y h (c.height b))
    (fun j => repeatUp (clipLen x w (c.width b)) fun i => paint (max x 0 + i) (max y 0 + j)) v

/-- `rect` (R171). -/
def rect (c : Cfg) (b : Buf) (x y w h : Int) (color : Bool) (v : Canvas) : Canvas :=
  let painted := overClip c b x y w h (fun px py => putPixel c b px py color) v
  { painted with allIn := painted.allIn && rectInside c b x y w h }

/-! ### The pixel source of a blit -/

/-- The source's answer at (sx, sy) on a rectangle `width` wide, row-major (R173). -/
def sourceAt (src : PixelSource) (index : Nat) : Byte :=
  src.answers.getD index src.rest

/-- A legal answer of a pixel source (R173, R225). -/
def isPixel (v : Byte) : Bool :=
  decide (v = 0#8) || decide (v = 1#8)

/-- The first of `n` row-major points where the source answers neither 0 nor 1 (R225). -/
def firstBad (src : PixelSource) (n : Nat) : Option Nat :=
  match (src.answers.take n).findIdx? fun v => !isPixel v with
  | some k => some k
  | none => if src.answers.length < n ∧ !isPixel src.rest then some src.answers.length else none

/-- The pixels of a blit before row-major point `limit` (R173). -/
def blitPixels (c : Cfg) (b : Buf) (src : PixelSource) (x y w h : Int) (limit : Nat) (v : Canvas) : Canvas :=
  overClip c b x y w h
    (fun px py v =>
      let index := (py - y).toNat * w.toNat + (px - x).toNat
      if index < limit then putPixel c b px py (decide (sourceAt src index = 1#8)) v else v) v

/-! ### The meanings -/

/-- A drawing operation is over: the buffer and RES.STATUS. -/
def State.drawn (s : State) (b : Buf) (v : Canvas) : State :=
  (s.setMem b v.mem).setStatus (drawStatus v.allIn)

/-- The canvas a drawing operation starts from. -/
def State.canvas (s : State) (b : Buf) : Canvas :=
  ⟨s.mem b, true⟩

/-- SETPIXEL (R170). -/
def execSetPixel (b x y color : Int) (s : State) : Host.Outcome State Fault Refusal :=
  .next (
    if accepts s.cfg (.setPixel b x y color) then
      s.drawn (bufOf b) (putPixel s.cfg (bufOf b) x y (colorBit color) (s.canvas (bufOf b)))
    else s.badRequest)

/-- FILLRECT (R171). -/
def execFillRect (b x y w h color : Int) (s : State) : Host.Outcome State Fault Refusal :=
  .next (
    if accepts s.cfg (.fillRect b x y w h color) then
      s.drawn (bufOf b) (rect s.cfg (bufOf b) x y w h (colorBit color) (s.canvas (bufOf b)))
    else s.badRequest)

/-- FILL (R172). -/
def execFill (b color : Int) (s : State) : Host.Outcome State Fault Refusal :=
  .next (
    if accepts s.cfg (.fill b color) then
      s.drawn (bufOf b) ⟨Memory.uniform s.cfg.fbLen (if colorBit color then 0xFF#8 else 0x00#8), true⟩
    else s.badRequest)

/-- BLIT (R173, R225): a bad answer of the source ends it with BadRequest, the pixels before it stay written. -/
def execBlit (b : Int) (src : PixelSource) (x y w h : Int) (s : State) : Host.Outcome State Fault Refusal :=
  .next (
    if accepts s.cfg (.blit b src x y w h) then
      match firstBad src (w.toNat * h.toNat) with
      | some limit =>
        (s.setMem (bufOf b) (blitPixels s.cfg (bufOf b) src x y w h limit (s.canvas (bufOf b))).mem).badRequest
      | none =>
        s.drawn (bufOf b)
          { blitPixels s.cfg (bufOf b) src x y w h (w.toNat * h.toNat) (s.canvas (bufOf b)) with
            allIn := rectInside s.cfg (bufOf b) x y w h }
    else s.badRequest)

end Sys2Proof.Machine
end

