-- ==== Sys2Proof/Machine/Text.lean ====
section
/-!
DEFINITION. The Text Layout Engine (43_text_engine.md): lines and words, the greedy wrap, the scale search, the scaled text
painter, and the meanings of the two text requests.
-/

namespace Sys2Proof.Machine

/-- A text or one line of it: one byte is one character. -/
abbrev Line := List Byte

/-! ### Lines and words -/

/-- Cuts at every byte `sep` holds of, without those bytes; k cuts give k + 1 pieces. -/
def cutAt (sep : Byte → Bool) : Line → List Line
  | [] => [[]]
  | c :: cs =>
    if sep c then [] :: cutAt sep cs
    else
      match cutAt sep cs with
      | [] => [[c]]
      | p :: ps => (c :: p) :: ps

/-- `splitLines` (R191): the line break is 0x0A. -/
def splitLines (text : Line) : List Line :=
  cutAt (fun c => c == 0x0A#8) text

/-- The whitespace bytes (R196). -/
def isSpace (c : Byte) : Bool :=
  c == 0x20#8 || c == 0x09#8 || c == 0x0B#8 || c == 0x0C#8 || c == 0x0D#8

/-- `trim` (R196). -/
def trim (p : Line) : Line :=
  ((p.dropWhile isSpace).reverse.dropWhile isSpace).reverse

/-- `words` (R197): the maximal runs of non-whitespace bytes, in order. -/
def words (p : Line) : List Line :=
  (cutAt isSpace p).filter fun w => !w.isEmpty

/-! ### The greedy wrap (R197) -/

/-- The loop of `wrapLine`: `cur` is the output line being filled. `none` is REJECT. -/
def wrapWords (maxChars : Nat) : Option Line → List Line → Option (List Line)
  | none, [] => some []
  | some cur, [] => some [cur]
  | none, w :: ws => if w.length > maxChars then none else wrapWords maxChars (some w) ws
  | some cur, w :: ws =>
    if w.length > maxChars then none
    else if cur.length + 1 + w.length ≤ maxChars then wrapWords maxChars (some (cur ++ 0x20#8 :: w)) ws
    else (wrapWords maxChars (some w) ws).map (cur :: ·)

/-- `wrapLine` (R197). -/
def wrapLine (p : Line) (maxChars : Nat) : Option (List Line) :=
  wrapWords maxChars none (words p)

/-- All input lines wrapped at one width, in order; `none` if one is rejected (R198). -/
def wrapAll (maxChars : Nat) : List Line → Option (List Line)
  | [] => some []
  | p :: ps =>
    match wrapLine p maxChars with
    | none => none
    | some r => (wrapAll maxChars ps).map (r ++ ·)

/-! ### The scale search (R195, R198, R199) -/

/-- `maxScale` (R195). -/
def maxScale (c : Cfg) (cap : Option Int) : Int :=
  let m : Int := max (min c.txtW c.txtH / 8 : Nat) 1
  match cap with
  | none => m
  | some v => min m v

/-- One candidate: the wrapped lines if scale `S` is accepted (R198). -/
def candidate (c : Cfg) (inputLines : List Line) (S : Nat) : Option (List Line) :=
  match wrapAll (c.txtW / (8 * S)) inputLines with
  | none => none
  | some lines => if lines.length ≤ c.txtH / (8 * S) then some lines else none

/-- `search` (R198): candidates S, S − 1, …, 1. -/
def search (c : Cfg) (inputLines : List Line) : Nat → Option (Nat × List Line)
  | 0 => none
  | S + 1 =>
    match candidate c inputLines (S + 1) with
    | some lines => some (S + 1, lines)
    | none => search c inputLines S

/-- Steps 1 to 4 of `autoFitText`: the chosen scale and the lines (R194 to R199). -/
def fitText (c : Cfg) (text : Line) (cap : Option Int) : Nat × List Line :=
  (search c ((splitLines text).map trim) (maxScale c cap).toNat).getD (Config.fallbackScale, [text])

/-! ### Painting text (R192) -/

/-- One line: for every raster pixel with ink, an s × s block (R190, R192). `y` is the line's top row. -/
def paintLine (c : Cfg) (b : Buf) (line : Line) (x y s : Int) (color : Bool) (v : Canvas) : Canvas :=
  repeatUp 8
    (fun sy => repeatUp (8 * line.length) fun sx v =>
      if c.ink (line.getD (sx / 8) 0#8) (sx % 8) sy then rect c b (x + sx * s) (y + sy * s) s s color v else v) v

/-- Lines below each other, line `li` first (R192). -/
def paintLines (c : Cfg) (b : Buf) (x y s : Int) (color : Bool) : Nat → List Line → Canvas → Canvas
  | _, [], v => v
  | li, line :: ls, v => paintLines c b x y s color (li + 1) ls (paintLine c b line x (y + li * 8 * s) s color v)

/-- `stb` (R192, R193): the effective scale is max(scale, 1). -/
def stb (c : Cfg) (b : Buf) (text : Line) (x y scale : Int) (color : Bool) (v : Canvas) : Canvas :=
  paintLines c b x y (max scale 1) color 0 (splitLines text) v

/-- Step 6 of `autoFitText` (R194): each chosen line through `stb`, centred in TXT_W if asked. -/
def paintFitted (c : Cfg) (b : Buf) (x y : Int) (scale : Nat) (color center : Bool) :
    Nat → List Line → Canvas → Canvas
  | _, [], v => v
  | li, line :: ls, v =>
    let xoff := if center then x + ((c.txtW : Int) - line.length * 8 * scale) / 2 else x
    paintFitted c b x y scale color center (li + 1) ls (stb c b line xoff (y + li * 8 * scale) scale color v)

/-- Step 5 of `autoFitText` (R194): the block's top row, centred in height(b) if asked. -/
def blockTop (c : Cfg) (b : Buf) (y : Int) (scale nlines : Nat) (centerVertical : Bool) : Int :=
  if centerVertical then ((c.height b : Int) - nlines * 8 * scale) / 2 else y

/-! ### The meanings -/

/-- STEXT (R192, R193). -/
def execStext (b : Int) (text : Line) (x y scale color : Int) (s : State) : Host.Outcome State Fault Refusal :=
  .next (
    if accepts s.cfg (.stext b text x y scale color) then
      s.drawn (bufOf b) (stb s.cfg (bufOf b) text x y scale (colorBit color) (s.canvas (bufOf b)))
    else s.badRequest)

/-- RES.SCALE and RES.LINES (R30, R194). -/
def State.setFit (s : State) (fit : Nat × List Line) : State :=
  { s with res := { s.res with scale := fit.1, lines := fit.2 } }

/-- AUTOFIT (R194 to R200). -/
def execAutofit (b : Int) (text : Line) (x y color : Int) (cap : Option Int) (center centerVertical : Bool) (s : State) :
    Host.Outcome State Fault Refusal :=
  .next (
    if accepts s.cfg (.autofit b text x y color cap center centerVertical) then
      let fit := fitText s.cfg text cap
      let top := blockTop s.cfg (bufOf b) y fit.1 fit.2.length centerVertical
      (s.setFit fit).drawn (bufOf b)
        (paintFitted s.cfg (bufOf b) x top fit.1 (colorBit color) center 0 fit.2 (s.canvas (bufOf b)))
    else s.badRequest)

end Sys2Proof.Machine
end

