-- ==== Sys2Proof/Machine/Dispatch.lean ====
section
/-!
DEFINITION. One arm per row of spec/opcode_table.json, each one call of its meaning.
-/

namespace Sys2Proof.Machine

def exec (i : Instr) (s : State) : Host.Outcome State Fault Refusal :=
  match i with
  -- host requests (R114)
  | .init mode => Sys2Proof.Machine.execInit mode s
  | .setWindow xs ys xe ye => Sys2Proof.Machine.execSetWindow xs ys xe ye s
  | .setCursor x y => Sys2Proof.Machine.execSetCursor x y s
  | .turnOn => Sys2Proof.Machine.execTurnOn s
  | .display b => Sys2Proof.Machine.execDisplay b s
  | .displayL b => Sys2Proof.Machine.execDisplayL b s
  | .clear v => Sys2Proof.Machine.execClear v s
  | .sleep => Sys2Proof.Machine.execSleep s
  | .setPixel b x y color => Sys2Proof.Machine.execSetPixel b x y color s
  | .fillRect b x y w h color => Sys2Proof.Machine.execFillRect b x y w h color s
  | .fill b color => Sys2Proof.Machine.execFill b color s
  | .blit b src x y w h => Sys2Proof.Machine.execBlit b src x y w h s
  | .stext b text x y scale color => Sys2Proof.Machine.execStext b text x y scale color s
  | .autofit b text x y color cap center cv => Sys2Proof.Machine.execAutofit b text x y color cap center cv s
  -- bus commands (R100 to R113)
  | .cmdSwReset => Sys2Proof.Machine.execCmdSwReset s
  | .cmdDataEntry => Sys2Proof.Machine.execCmdDataEntry s
  | .cmdWindowX xs xe => Sys2Proof.Machine.execCmdWindowX xs xe s
  | .cmdWindowY ys ye => Sys2Proof.Machine.execCmdWindowY ys ye s
  | .cmdCursorX x => Sys2Proof.Machine.execCmdCursorX x s
  | .cmdCursorY y => Sys2Proof.Machine.execCmdCursorY y s
  | .cmdWriteRam src => Sys2Proof.Machine.execCmdWriteRam src s
  | .cmdWriteLut => Sys2Proof.Machine.execCmdWriteLut s
  | .cmdDisplayOption => Sys2Proof.Machine.execCmdDisplayOption s
  | .cmdBorder => Sys2Proof.Machine.execCmdBorder s
  | .cmdUpdateCtrl => Sys2Proof.Machine.execCmdUpdateCtrl s
  | .cmdActivate => Sys2Proof.Machine.execCmdActivate s
  | .cmdDeepSleep => Sys2Proof.Machine.execCmdDeepSleep s
  | .cmdFullCtrl => Sys2Proof.Machine.execCmdFullCtrl s

end Sys2Proof.Machine
end

