-- ==== Sys2Proof/Machine/Step.lean ====
section
/-!
DEFINITION. One step of the engine: the operation in progress goes on, or the host's next request is taken and run, or the
engine waits for a request.
-/

namespace Sys2Proof.Machine

/-- One step. A configuration that breaks a constraint of R6 is refused. With an operation in progress the sequencer goes on from
its position (R34, R134). Else the first frame at the port is decoded: a request is executed, anything else is BadRequest
(R116a, R225). With no frame the engine waits (R250; the same state, DESIGN CHOICE, log entry 15). -/
def step (s : State) : Host.Outcome State Fault Refusal :=
  if s.cfg.legal then
    match s.seq with
    | .active n rest => .next (runSeq n rest s)
    | .idle =>
      match s.port with
      | [] => .next s
      | frame :: _ =>
        match decodeFrame frame with
        | .ok i => exec i s.popPort
        | .error _ => .next s.popPort.badRequest
  else .refused .illegalConfig

/-- `s` with the instruction of a word of the opcode table placed so that the next step runs it: a request at the head of the port; a
bus command, which no host can request (R136), as the sequence SEQ stands at (log entry 6). -/
def State.withFetchWord (s : State) (nbits w : Nat) : State :=
  match decodeTableWord nbits w with
  | some i =>
    if i.isRequest then s.placeRequest (frameOf (tableBytes nbits w))
    else s.placeSequence (busSeq s i)
  | none => s.placeRequest (frameOf (tableBytes nbits w))

end Sys2Proof.Machine
end

