-- ==== Sys2Proof/Machine/Pins.lean ====
section
/-!
DEFINITION. Views of TRACE: the logical byte stream (R11), the pin-level expansion of an event (R93), and the output
line levels, which TRACE implies (R29, R41). No meaning reads any of them (R28).
-/

namespace Sys2Proof.Machine

/-- The logical byte stream of a trace: every data run as single-byte transactions (R11). -/
def logicalStream (es : List Event) : List Event :=
  es.flatMap fun e =>
    match e with
    | .data bs => bs.map sendData
    | .rstLow => [.rstLow]
    | .rstHigh => [.rstHigh]
    | .delay d => [.delay d]
    | .cmd c => [.cmd c]
    | .poll r => [.poll r]

/-- One act on the engine's five lines (R93, R234). -/
inductive PinAct where
  | dc (level : Bool)
  | cs (level : Bool)
  | shift (b : Byte)
  | rst (level : Bool)
  | delay (name : DelayName)
  | sample (level : Bool)
  deriving DecidableEq, Repr

/-- A transaction on the pins: discriminator, chip-select asserted, the bytes, chip-select deasserted (R93). -/
def transactionPins (c : Cfg) (dcLevel : Bool) (bs : List Byte) : List PinAct :=
  [.dc dcLevel, .cs c.csActive] ++ bs.map .shift ++ [.cs (!c.csActive)]

/-- The pin-level expansion of an event (R92, R93, R130). -/
def eventPins (c : Cfg) : Event → List PinAct
  | .rstLow => [.rst c.rstActive]
  | .rstHigh => [.rst (!c.rstActive)]
  | .delay d => [.delay d]
  | .cmd b => transactionPins c c.dcCmd [b]
  | .data bs => transactionPins c (!c.dcCmd) bs
  | .poll .busy => [.sample c.busyActive]
  | .poll .idle => [.sample (!c.busyActive)]

/-- Everything the engine did on its lines since reset. -/
def State.pinHistory (s : State) : List PinAct :=
  s.trace.flatMap (eventPins s.cfg)

/-- The last level a line was driven to, `before` if it never was. -/
def lastLevel (line : PinAct → Option Bool) (before : Bool) (acts : List PinAct) : Bool :=
  (acts.filterMap line).getLastD before

/-- Whether the chip-select line is asserted (R29: never between transactions). -/
def State.csAsserted (s : State) : Bool :=
  lastLevel (fun a => match a with
    | .cs l => some l
    | .dc _ => none
    | .shift _ => none
    | .rst _ => none
    | .delay _ => none
    | .sample _ => none) (!s.cfg.csActive) s.pinHistory == s.cfg.csActive

/-- Whether the reset line is asserted (R29: only between RstLow and RstHigh). -/
def State.rstAsserted (s : State) : Bool :=
  lastLevel (fun a => match a with
    | .rst l => some l
    | .dc _ => none
    | .cs _ => none
    | .shift _ => none
    | .delay _ => none
    | .sample _ => none) (!s.cfg.rstActive) s.pinHistory == s.cfg.rstActive

/-- The level of the discriminator line between transactions: any value (R29, U8; log entry 14). -/
def State.dcLine (s : State) : Bool :=
  Config.dcIdle s.trace.length

/-- The length of a named delay: a configuration value no rule interprets (R6, R270; log entry 17). No meaning calls it. -/
def delayLength (c : Cfg) : DelayName → Nat
  | .rstLow => c.tRstLow
  | .rstHigh => c.tRstHigh
  | .poll => c.tPoll

end Sys2Proof.Machine
end

