-- ==== Sys2Proof/Safety.lean ====
section
/-!
DEFINITION. What the statements speak of: a run, its requests' statuses and its good end (R271), the invariant of the engine between
steps (R20, R21, R27, R29, R34), operands in range (R9), a wait that answers Busy (R134, R222), the pseudocode of `rect` read literally (R171), and which pixels a text covers (R190, R192).
-/

namespace Sys2Proof.Machine

/-! ### A run and its end (R271) -/

/-- A status no good run contains (R271). -/
def Status.bad : Status → Bool
  | .ok => false
  | .unsupportedMode => false
  | .timeout => true
  | .phaseRefused => true
  | .oobRejected => false
  | .badRequest => true

/-- The status of the request that a step from `s` to `t` completes: with no operation in progress and no request there is none to
complete; else the request has ended when SEQ is idle (R12, R34). -/
def completed (s t : State) : List Status :=
  if s.seq = .idle ∧ s.port = [] then [] else if t.seq = .idle then [t.res.status] else []

/-- The statuses with which requests end in the first `n` steps from `s`, in order (R271). -/
def statuses : Nat → State → List Status
  | 0, _ => []
  | n + 1, s =>
    match step s with
    | .next t => completed s t ++ statuses n t
    | .fault _ => []
    | .refused _ => []

/-- A run (R271): the requests at the port of `s`, issued one after the other, the last of them completed at `t` after at most `n`
steps. -/
def runEnds (n : Nat) (s t : State) : Prop :=
  s.seq = .idle ∧ Host.Core.run Sys2Proof.core n s = .next t ∧ t.seq = .idle ∧ t.port = []

/-- The run's good end (R271): S.FAULT is empty, and no request of the run ended with TIMEOUT, PHASE_REFUSED or BAD_REQUEST. -/
def goodEnd (n : Nat) (s t : State) : Prop :=
  runEnds n s t ∧ t.faultFree = true ∧ ∀ st ∈ statuses n s, st.bad = false

/-! ### The invariant -/

/-- The phases and modes seen between operations when no wait has failed (R20, R21). -/
def restState : Phase → Mode → Bool
  | .uninitialized, m => decide (m = .none)
  | .resetting, _ => false
  | .softwareReset, _ => false
  | .modeConfigured, _ => false
  | .idle, m => decide (m ≠ .none)
  | .refreshing, _ => false
  | .sleeping, m => decide (m ≠ .none)

/-- The phases and modes at a wait, which a timed-out operation leaves behind (R20, R153, R222). -/
def waitState : Phase → Mode → Bool
  | .uninitialized, _ => false
  | .resetting, _ => false
  | .softwareReset, m => decide (m = .none)
  | .modeConfigured, m => decide (m = .partialRefresh)
  | .idle, _ => false
  | .refreshing, m => decide (m ≠ .none)
  | .sleeping, _ => false

/-- A sequence that, from this phase and mode, meets only waits in a wait state and ends in a rest state. -/
def seqSafe : Phase → Mode → List SeqOp → Bool
  | p, m, [] => restState p m
  | p, m, .wait :: rest => waitState p m && seqSafe p m rest
  | _, m, .phase p :: rest => seqSafe p m rest
  | p, _, .mode m :: rest => seqSafe p m rest
  | p, m, .emit _ :: rest => seqSafe p m rest
  | p, m, .forget :: rest => seqSafe p m rest
  | p, m, .win _ :: rest => seqSafe p m rest
  | p, m, .cur _ :: rest => seqSafe p m rest
  | p, m, .status _ :: rest => seqSafe p m rest

/-- The sequencer's part of the invariant: between operations a rest state, or a wait state left by a timeout and marked by its flag;
inside an operation the sequencer stands at a wait that has taken at least one sample and is not exhausted (R20, R34, R134). -/
def State.seqInv (s : State) : Prop :=
  match s.seq with
  | .idle =>
    s.latch = none ∧
      (restState s.phase s.mode = true ∨ (s.fault.timeout = true ∧ waitState s.phase s.mode = true))
  | .active n rest =>
    s.latch ≠ none ∧ 0 < n ∧ timedOut s.cfg n = false ∧ rest.head? = some .wait ∧ seqSafe s.phase s.mode rest = true

/-- Both buffers in canonical form, every listed index below FB_LEN (R27, R60). -/
def State.memInv (s : State) : Prop :=
  (Memory.wf s.fbP ∧ Memory.within s.cfg.fbLen s.fbP) ∧ (Memory.wf s.fbL ∧ Memory.within s.cfg.fbLen s.fbL)

/-- No reset pulse is left open by these events: their last reset edge, if they have one, is RstHigh (R29, R130). -/
def releasesReset (es : List Event) : Bool :=
  (es.filter fun e => e == .rstLow || e == .rstHigh).getLast? != some .rstLow

/-- An item of a sequence that leaves no reset pulse open. -/
def SeqOp.releases : SeqOp → Bool
  | .emit es => releasesReset es
  | .wait => true
  | .phase _ => true
  | .mode _ => true
  | .forget => true
  | .win _ => true
  | .cur _ => true
  | .status _ => true

/-- The reset line's part of the invariant: no pulse of TRACE is open, and none will be where the sequencer next stops (R29). -/
def State.resetInv (s : State) : Prop :=
  releasesReset s.trace = true ∧
    match s.seq with
    | .idle => True
    | .active _ rest => rest.all SeqOp.releases = true

/-- The invariant of the engine between steps. -/
def State.inv (s : State) : Prop :=
  s.cfg.legal = true ∧ s.memInv ∧ s.seqInv ∧ s.resetInv

/-! ### Operands and waits -/

/-- An integer the port accepts, written out (R9). -/
def isInt32 (v : Int) : Prop :=
  -2147483648 ≤ v ∧ v ≤ 2147483647

/-- The whitespace bytes, written out (R196; the set is the spec's own choice, D35). -/
def isWhite (c : Byte) : Prop :=
  c = 0x20#8 ∨ c = 0x09#8 ∨ c = 0x0B#8 ∨ c = 0x0C#8 ∨ c = 0x0D#8

/-- `o` is what operation `i` answers when the first sample of a wait answers Busy (R134, R222). `u` is the state with all that stands
before the sample done and the sample taken, `rest` what follows the wait: with one sample allowed the operation ends there with
HardwareTimeout; with more it stays at the wait with that sample counted. That a step ends at a Busy sample is log entry 4. -/
def stopsBusy (o : Host.Outcome State Fault Refusal) (u : State) (i : Instr) (rest : List SeqOp) : Prop :=
  ((∃ T, u.cfg.busyTimeout = some T ∧ T ≤ 1) →
    o = .next { u with
      trace := u.trace ++ [.poll .busy], fault := { u.fault with timeout := true },
      res := { u.res with status := .timeout }, seq := .idle, latch := none }) ∧
  ((∀ T, u.cfg.busyTimeout = some T → 1 < T) →
    o = .next { u with
      trace := u.trace ++ [.poll .busy, .delay .poll], seq := .active 1 (.wait :: rest), latch := some i })

/-! ### Events written out from the rules -/

/-- The cursor set to the reference point (R145, R147). -/
def refPointEvents (c : Cfg) : List Event :=
  [.cmd 0x4E#8, .data [BitVec.ofInt 8 c.curX], .cmd 0x4F#8, .data [BitVec.ofInt 8 c.curY],
   .data [BitVec.ofInt 8 (c.curY / 256)]]

/-- What `init` sends before its first busy sample (R130, R140). -/
def resetEvents : List Event :=
  [.rstLow, .delay .rstLow, .rstHigh, .delay .rstHigh, .cmd 0x12#8]

/-- The data-entry byte and the init window (R140, R101, R102, R103). -/
def initWindowEvents (c : Cfg) : List Event :=
  [.cmd 0x11#8, .data [c.dataEntryByte],
   .cmd 0x44#8, .data [BitVec.ofInt 8 (c.xOffset / 8)], .data [BitVec.ofInt 8 (c.winXe / 8)],
   .cmd 0x45#8, .data [0#8], .data [0#8], .data [BitVec.ofInt 8 c.winYe], .data [BitVec.ofInt 8 (c.winYe / 256)]]

/-- The init window as recorded (R140, R144). -/
def initWindow (c : Cfg) : Window :=
  ⟨BitVec.ofInt 8 (c.xOffset / 8), 0#16, BitVec.ofInt 8 (c.winXe / 8), BitVec.ofInt 16 c.winYe⟩

/-- The waveform upload (R107, R152). -/
def waveformEvents (c : Cfg) : List Event :=
  .cmd 0x32#8 :: (List.range 153).map fun k => .data [c.lut.getD k 0#8]

/-- What the partial branch sends between its two waits (R142, R108, R109, R110, R111). -/
def partialEvents (c : Cfg) : List Event :=
  .cmd 0x37#8 :: (List.range 10).map (fun k => .data [if k = c.optNzIndex then c.optNzByte else 0#8]) ++
    [.cmd 0x3C#8, .data [c.borderByte], .cmd 0x22#8, .data [c.updateCtrlByte], .cmd 0x20#8]

/-! ### Reference forms for the drawing statements -/

/-- `rect` exactly as R171's pseudocode has it: every pixel of the rectangle, row by row, through `putPixel`. -/
def rectLoop (c : Cfg) (b : Buf) (x y w h : Int) (color : Bool) (v : Canvas) : Canvas :=
  repeatUp h.toNat (fun j => repeatUp w.toNat fun i => putPixel c b (x + i) (y + j) color) v

/-- Pixel (px, py) lies in the w × h rectangle with top-left pixel (x, y) (R171). -/
def inRect (x y w h px py : Int) : Prop :=
  x ≤ px ∧ px < x + w ∧ y ≤ py ∧ py < y + h

/-- A w × h rectangle at (x, y), if not empty, lies wholly inside buffer `b`. -/
def rectFits (c : Cfg) (b : Buf) (x y w h : Int) : Prop :=
  w ≤ 0 ∨ h ≤ 0 ∨ (0 ≤ x ∧ 0 ≤ y ∧ x + w ≤ c.width b ∧ y + h ≤ c.height b)

/-- Raster pixel (sx, sy) of line `li` of `text` has ink (R190). -/
def rasterInk (c : Cfg) (text : Line) (li sx sy : Nat) : Prop :=
  ∃ line, (splitLines text)[li]? = some line ∧ sx < 8 * line.length ∧ sy < 8 ∧
    c.ink (line.getD (sx / 8) 0#8) (sx % 8) sy = true

/-- Pixel (px, py) is covered by a block of `text` painted at (x, y) in scale `s` ≥ 1 (R192). -/
def textCovers (c : Cfg) (text : Line) (x y s px py : Int) : Prop :=
  ∃ li sx sy, rasterInk c text li sx sy ∧ inRect (x + sx * s) (y + (li * 8 + sy) * s) s s px py

/-- Every block of `text` painted at (x, y) in scale `s` lies inside the buffer (R192, R65). -/
def textFits (c : Cfg) (b : Buf) (text : Line) (x y s : Int) : Prop :=
  ∀ li sx sy, rasterInk c text li sx sy → rectFits c b (x + sx * s) (y + (li * 8 + sy) * s) s s

/-- Where step 6 of `autoFitText` puts a line (R194). -/
def lineLeft (c : Cfg) (x : Int) (center : Bool) (scale : Nat) (line : Line) : Int :=
  if center then x + ((c.txtW : Int) - line.length * 8 * scale) / 2 else x

/-- The events of `k` Busy answers of one wait that goes on (R134). -/
def busyPolls (k : Nat) : List Event :=
  (List.replicate k [Event.poll .busy, Event.delay .poll]).flatten

/-- Another state's TRACE put before this one's: the same engine with a longer past (R28). -/
def State.withPast (s : State) (past : List Event) : State :=
  { s with trace := past ++ s.trace }

end Sys2Proof.Machine
end

