-- ==== Sys2Proof/Certificates/Slice0/Obligations.lean ====
section
/-!
DEFINITION. The statements for the provers, in the order of OBLIGATIONS.json. Each is about the machine, not about a program;
values of the reference configuration occur in none but the few written-out words of the second.
-/

open Sys2Proof Sys2Proof.Machine

/-! ### Encoding -/

/-- R114, R100 to R113: every instruction the format can carry is read back from its bytes, with all its operands, whatever
follows; CMD_FULL_CTRL in its own slot (R112). The byte form of operands is the model's (log entry 7). -/
def Obligations.DecodeReadsBackEncode : Prop :=
  ∀ (fullCmd : Byte) (i : Instr) (rest : List Byte), i.wellFormed = true →
    (i ≠ .cmdFullCtrl → decode none (encode fullCmd i ++ rest) = .ok (i, rest)) ∧
    (i = .cmdFullCtrl → decode (some fullCmd) (encode fullCmd i ++ rest) = .ok (i, rest))

/-- R114, R100, R102, R110: the codes the tables give, written out; operands in the model's byte form (log entry 7). The last frame is
the model's choice: CMD_FULL_CTRL has no code of its own, and its configured byte 0x22 means it in its command slot only (log entry 10). -/
def Obligations.SpelledFramesDecode : Prop :=
  decodeFrame [0x83#8] = .ok .turnOn ∧
  decodeFrame [0x87#8] = .ok .sleep ∧
  decodeFrame (0x80#8 :: [1#8, 0#8, 0#8, 0#8, 0#8, 0#8, 0#8, 0#8]) = .ok (.init 1) ∧
  decodeFrame (0x86#8 :: [255#8, 0#8, 0#8, 0#8, 0#8, 0#8, 0#8, 0#8]) = .ok (.clear 255) ∧
  decode none [0x12#8] = .ok (.cmdSwReset, []) ∧
  decode none [0x44#8, 0x01#8, 0x13#8] = .ok (.cmdWindowX 0x01#8 0x13#8, []) ∧
  decode none [0x45#8, 0x00#8, 0x00#8, 0x28#8, 0x01#8] = .ok (.cmdWindowY 0#16 296#16, []) ∧
  decode none [0x22#8] = .ok (.cmdUpdateCtrl, []) ∧
  decode (some 0x22#8) [0x22#8] = .ok (.cmdFullCtrl, [])

/-- R116a, R136, R225: a frame whose first byte is none of R114's fourteen codes is no request: it ends as BadRequest and
changes RES.STATUS alone (the frame leaves the port). The thirteen command bytes are among them. -/
def Obligations.OnlyRequestCodesAreRequests : Prop :=
  ∀ (s : State) (c : Byte) (bs : List Byte) (fs : List (List Byte)),
    s.cfg.legal = true → s.seq = .idle → s.port = (c :: bs) :: fs → c ∉ requestCodes →
      step s = .next { s with port := fs, res := { s.res with status := .badRequest } }

/-! ### The step -/

/-- R34, R73: between operations a step takes the host's next request from the port and runs exactly it; the frame leaves the port. -/
def Obligations.StepRunsDecodedRequest : Prop :=
  ∀ (s : State) (frame : List Byte) (fs : List (List Byte)) (i : Instr),
    s.cfg.legal = true → s.seq = .idle → s.port = frame :: fs → decodeFrame frame = .ok i →
      step s = exec i { s with port := fs }

/-- R34, R250: with the sequencer at a bus command a step runs it; with nothing to do the engine waits. That a bus command can be
sequenced alone is the model's (log entry 6), and so is that an idle step answers the same state (log entry 15). -/
def Obligations.StepRunsSequencedCommandOrWaits : Prop :=
  (∀ (s : State) (i : Instr), s.cfg.legal = true → i.isRequest = false → s.seq = .active 0 (busSeq s i) →
    step s = exec i s) ∧
  (∀ s : State, s.cfg.legal = true → s.seq = .idle → s.port = [] → step s = .next s)

/-- R6: the constraints of its table, written out, and what becomes of a configuration that breaks one. The model's: a font is a table of
256 glyphs (log entry 1), and the refusal comes at every step, by the name illegalConfig (DEDUCED, log entry 16). -/
def Obligations.IllegalConfigurationIsRefused : Prop :=
  ∀ s : State,
    (s.cfg.legal = true ↔
      (0 < s.cfg.wPx ∧ 8 ∣ s.cfg.wPx ∧ 0 < s.cfg.hPx ∧ 0 < s.cfg.txtW ∧ 0 < s.cfg.txtH ∧
        s.cfg.modeFull ≠ s.cfg.modePartial ∧ 8 ∣ s.cfg.xOffset ∧
        s.cfg.fullCtrlCmd ∈ [0x12#8, 0x11#8, 0x44#8, 0x45#8, 0x4E#8, 0x4F#8, 0x24#8, 0x32#8, 0x37#8, 0x3C#8, 0x22#8, 0x20#8,
          0x10#8] ∧
        153 ≤ s.cfg.lut.length ∧ s.cfg.optNzIndex ≤ 9 ∧ 1 ≤ s.cfg.optNzByte.toNat ∧
        (∀ T, s.cfg.busyTimeout = some T → 0 < T) ∧ 1 ≤ s.cfg.txtMax) ∧
      s.cfg.font.length = 256) ∧
    (s.cfg.legal = false → step s = .refused .illegalConfig)

/-- R134: one more sample of the wait an operation stands at: Idle goes on with the sequence; Busy with samples left counts one and
delays; Busy with none left is HardwareTimeout (R222), which keeps phase, mode, window, cursor and buffers. -/
def Obligations.WaitTakesOneSample : Prop :=
  ∀ (s : State) (n : Nat) (rest : List SeqOp), s.cfg.legal = true → s.seq = .active n (.wait :: rest) →
    (s.nextAnswer = .idle →
      step s = .next (runSeq 0 rest { s.consumeAnswer with trace := s.trace ++ [.poll .idle] })) ∧
    (s.nextAnswer = .busy → (∀ t, s.cfg.busyTimeout = some t → n + 1 < t) →
      step s = .next { s.consumeAnswer with
        trace := s.trace ++ [.poll .busy, .delay .poll], seq := .active (n + 1) (.wait :: rest) }) ∧
    (s.nextAnswer = .busy → (∃ t, s.cfg.busyTimeout = some t ∧ t ≤ n + 1) →
      step s = .next { s.consumeAnswer with
        trace := s.trace ++ [.poll .busy], fault := { s.fault with timeout := true },
        res := { s.res with status := .timeout }, seq := .idle, latch := none })

/-- R134: a wait that gets `k` Busy answers and then Idle, within its samples, goes on after exactly the events of R134. -/
def Obligations.WaitEndsAtIdle : Prop :=
  ∀ (s : State) (n k : Nat) (rest : List SeqOp) (later : List Answer),
    s.cfg.legal = true → s.seq = .active n (.wait :: rest) →
    s.answers = List.replicate k .busy ++ .idle :: later → (∀ t, s.cfg.busyTimeout = some t → n + k < t) →
      Host.Core.run Sys2Proof.core (k + 1) s =
        .next (runSeq 0 rest { s with
          answers := later, trace := s.trace ++ busyPolls k ++ [.poll .idle],
          seq := .active (n + k) (.wait :: rest) })

/-- R134, R222: a wait that gets only Busy answers ends with HardwareTimeout exactly at its BUSY_TIMEOUT-th sample, with no delay after
the last. -/
def Obligations.WaitTimesOut : Prop :=
  ∀ (s : State) (n k : Nat) (rest : List SeqOp) (later : List Answer),
    s.cfg.legal = true → s.seq = .active n (.wait :: rest) →
    s.answers = List.replicate (k + 1) .busy ++ later → s.cfg.busyTimeout = some (n + k + 1) →
      Host.Core.run Sys2Proof.core (k + 1) s =
        .next { s with
          answers := later, trace := s.trace ++ busyPolls k ++ [.poll .busy],
          fault := { s.fault with timeout := true }, res := { s.res with status := .timeout },
          seq := .idle, latch := none }

/-- R134, R263: with BUSY_TIMEOUT = ∞ any number of Busy answers leaves the operation at its wait. One Busy answer is one step, and the
answers are settled in State: the model's (log entry 4). -/
def Obligations.SilentControllerHangs : Prop :=
  ∀ (s : State) (n k : Nat) (rest : List SeqOp) (later : List Answer),
    s.cfg.legal = true → s.seq = .active n (.wait :: rest) →
    s.answers = List.replicate k .busy ++ later → s.cfg.busyTimeout = none →
      Host.Core.run Sys2Proof.core k s =
        .next { s with
          answers := later, trace := s.trace ++ busyPolls k, seq := .active (n + k) (.wait :: rest) }

/-! ### Controller Protocol -/

/-- R140, R141, R112: `init(MODE_FULL)` with Idle at its one wait, in any phase: the eighteen events, and the whole next state. -/
def Obligations.InitFullCompletes : Prop :=
  ∀ s : State, inRange s.cfg.modeFull = true → s.nextAnswer = .idle →
    exec (.init s.cfg.modeFull) s = .next { s.consumeAnswer with
      phase := .idle, mode := .fullRefresh, cur := none,
      win := some ⟨BitVec.ofInt 8 (s.cfg.xOffset / 8), 0#16, BitVec.ofInt 8 (s.cfg.winXe / 8), BitVec.ofInt 16 s.cfg.winYe⟩,
      trace := s.trace ++
        [.rstLow, .delay .rstLow, .rstHigh, .delay .rstHigh, .cmd 0x12#8, .poll .idle,
         .cmd 0x11#8, .data [s.cfg.dataEntryByte],
         .cmd 0x44#8, .data [BitVec.ofInt 8 (s.cfg.xOffset / 8)], .data [BitVec.ofInt 8 (s.cfg.winXe / 8)],
         .cmd 0x45#8, .data [0#8], .data [0#8], .data [BitVec.ofInt 8 s.cfg.winYe],
         .data [BitVec.ofInt 8 (s.cfg.winYe / 256)],
         .cmd s.cfg.fullCtrlCmd, .data [s.cfg.fullCtrlByte]],
      res := { s.res with status := .ok }, seq := .idle, latch := none }

/-- R140, R142, R152, R107, R108: `init(MODE_PARTIAL)` with Idle at each of its three waits, in any phase: exactly LUT[0] .. LUT[152], the
ten option bytes, and the whole next state. -/
def Obligations.InitPartialCompletes : Prop :=
  ∀ s : State, inRange s.cfg.modePartial = true → s.cfg.modePartial ≠ s.cfg.modeFull →
    s.nextAnswer = .idle → s.consumeAnswer.nextAnswer = .idle → s.consumeAnswer.consumeAnswer.nextAnswer = .idle →
    exec (.init s.cfg.modePartial) s = .next { s.consumeAnswer.consumeAnswer.consumeAnswer with
      phase := .idle, mode := .partialRefresh, cur := none,
      win := some ⟨BitVec.ofInt 8 (s.cfg.xOffset / 8), 0#16, BitVec.ofInt 8 (s.cfg.winXe / 8), BitVec.ofInt 16 s.cfg.winYe⟩,
      trace := s.trace ++
        [.rstLow, .delay .rstLow, .rstHigh, .delay .rstHigh, .cmd 0x12#8, .poll .idle,
         .cmd 0x11#8, .data [s.cfg.dataEntryByte],
         .cmd 0x44#8, .data [BitVec.ofInt 8 (s.cfg.xOffset / 8)], .data [BitVec.ofInt 8 (s.cfg.winXe / 8)],
         .cmd 0x45#8, .data [0#8], .data [0#8], .data [BitVec.ofInt 8 s.cfg.winYe],
         .data [BitVec.ofInt 8 (s.cfg.winYe / 256)]] ++
        [.cmd 0x32#8] ++ (List.range 153).map (fun k => Event.data [s.cfg.lut.getD k 0#8]) ++
        [.poll .idle, .cmd 0x37#8] ++
        (List.range 10).map (fun k => Event.data [if k = s.cfg.optNzIndex then s.cfg.optNzByte else 0#8]) ++
        [.cmd 0x3C#8, .data [s.cfg.borderByte], .cmd 0x22#8, .data [s.cfg.updateCtrlByte],
         .cmd 0x20#8, .poll .idle],
      res := { s.res with status := .ok }, seq := .idle, latch := none }

/-- R143, R221, R228: `init` with any other mode in range changes RES.STATUS and nothing else, in every phase, with no bus event. -/
def Obligations.InitRejectsOtherModes : Prop :=
  ∀ (s : State) (mode : Int), inRange mode = true → mode ≠ s.cfg.modeFull → mode ≠ s.cfg.modePartial →
    exec (.init mode) s = .next { s with res := { s.res with status := .unsupportedMode } }

/-- R140, R142, R134, R222, R153: an `init` at each of its waits whose first sample answers Busy: the software-reset wait in both modes
(S.MODE, S.WIN and S.CUR none), and in partial mode the waveform wait (phase ModeConfigured) and the refresh wait (phase Refreshing), with
the window as sent; every event before the sample, the buffers kept. The phase points are the spec's own choice (R153, D25); that a step
ends at a Busy sample is the model's (log entry 4). -/
def Obligations.InitStopsAtItsWaits : Prop :=
  ∀ s : State,
    (∀ mode : Int, inRange mode = true → (mode = s.cfg.modeFull ∨ mode = s.cfg.modePartial) → s.nextAnswer = .busy →
      stopsBusy (exec (.init mode) s)
        { s.consumeAnswer with
          phase := .softwareReset, mode := .none, win := none, cur := none, trace := s.trace ++ resetEvents }
        (.init mode)
        (dataEntrySeq s.cfg ++ winSeq s.cfg.xOffset 0 s.cfg.winXe s.cfg.winYe ++ [.phase .modeConfigured] ++
          (if mode = s.cfg.modeFull then fullBranch s.cfg else partialBranch s.cfg) ++ [.status .ok])) ∧
    (inRange s.cfg.modePartial = true → s.cfg.modePartial ≠ s.cfg.modeFull → s.nextAnswer = .idle →
      (s.consumeAnswer.nextAnswer = .busy →
        stopsBusy (exec (.init s.cfg.modePartial) s)
          { s.consumeAnswer.consumeAnswer with
            phase := .modeConfigured, mode := .partialRefresh, win := some (initWindow s.cfg), cur := none,
            trace := s.trace ++ resetEvents ++ [.poll .idle] ++ initWindowEvents s.cfg ++ waveformEvents s.cfg }
          (.init s.cfg.modePartial)
          (displayOptionSeq s.cfg ++ borderSeq s.cfg ++ updateCtrlSeq s.cfg ++ refreshSeq ++ [.status .ok])) ∧
      (s.consumeAnswer.nextAnswer = .idle → s.consumeAnswer.consumeAnswer.nextAnswer = .busy →
        stopsBusy (exec (.init s.cfg.modePartial) s)
          { s.consumeAnswer.consumeAnswer.consumeAnswer with
            phase := .refreshing, mode := .partialRefresh, win := some (initWindow s.cfg), cur := none,
            trace := s.trace ++ resetEvents ++ [.poll .idle] ++ initWindowEvents s.cfg ++ waveformEvents s.cfg ++
              [.poll .idle] ++ partialEvents s.cfg }
          (.init s.cfg.modePartial) [.phase .idle, .status .ok]))

/-- R144, R102, R103, R115: `setWindow` in phase Idle: X truncated to 8-pixel units, Y split low byte first, the record kept, nothing else. -/
def Obligations.SetWindowCompletes : Prop :=
  ∀ (s : State) (xs ys xe ye : Int),
    inRange xs = true → inRange ys = true → inRange xe = true → inRange ye = true → s.phase = .idle →
    exec (.setWindow xs ys xe ye) s = .next { s with
      win := some ⟨BitVec.ofInt 8 (xs / 8), BitVec.ofInt 16 ys, BitVec.ofInt 8 (xe / 8), BitVec.ofInt 16 ye⟩,
      trace := s.trace ++
        [.cmd 0x44#8, .data [BitVec.ofInt 8 (xs / 8)], .data [BitVec.ofInt 8 (xe / 8)],
         .cmd 0x45#8, .data [BitVec.ofInt 8 ys], .data [BitVec.ofInt 8 (ys / 256)],
         .data [BitVec.ofInt 8 ye], .data [BitVec.ofInt 8 (ye / 256)]],
      res := { s.res with status := .ok }, seq := .idle, latch := none }

/-- R145, R104, R105, R115: `setCursor` in phase Idle: X unshifted, Y low byte first, the record kept, nothing else. -/
def Obligations.SetCursorCompletes : Prop :=
  ∀ (s : State) (x y : Int), inRange x = true → inRange y = true → s.phase = .idle →
    exec (.setCursor x y) s = .next { s with
      cur := some ⟨BitVec.ofInt 8 x, BitVec.ofInt 16 y⟩,
      trace := s.trace ++
        [.cmd 0x4E#8, .data [BitVec.ofInt 8 x], .cmd 0x4F#8, .data [BitVec.ofInt 8 y], .data [BitVec.ofInt 8 (y / 256)]],
      res := { s.res with status := .ok }, seq := .idle, latch := none }

/-- R146, R111: `turnOnDisplay` in phase Idle with Idle at its wait. -/
def Obligations.TurnOnCompletes : Prop :=
  ∀ s : State, s.phase = .idle → s.nextAnswer = .idle →
    exec .turnOn s = .next { s.consumeAnswer with
      phase := .idle, trace := s.trace ++ [.cmd 0x20#8, .poll .idle],
      res := { s.res with status := .ok }, seq := .idle, latch := none }

/-- R147, R106: `display(b)` in phase Idle with Idle at its wait: the buffer's bytes in ascending order in one run, buffers untouched. -/
def Obligations.DisplayCompletes : Prop :=
  ∀ (s : State) (b : Int), (b = 0 ∨ b = 1) → s.phase = .idle → s.nextAnswer = .idle →
    exec (.display b) s = .next { s.consumeAnswer with
      phase := .idle, cur := some ⟨BitVec.ofInt 8 s.cfg.curX, BitVec.ofInt 16 s.cfg.curY⟩,
      trace := s.trace ++
        [.cmd 0x4E#8, .data [BitVec.ofInt 8 s.cfg.curX], .cmd 0x4F#8, .data [BitVec.ofInt 8 s.cfg.curY],
         .data [BitVec.ofInt 8 (s.cfg.curY / 256)], .cmd 0x24#8,
         .data ((List.range s.cfg.fbLen).map (s.readByte (if b = 0 then .portrait else .landscape))),
         .cmd 0x20#8, .poll .idle],
      res := { s.res with status := .ok }, seq := .idle, latch := none }

/-- R148, R94: `displayLandscape(b)` in phase Idle with Idle at its wait: for each row j, for each byte column i, the byte at index
(WB − 1 − i) × H_PX + j as a transaction of its own. -/
def Obligations.DisplayLandscapeCompletes : Prop :=
  ∀ (s : State) (b : Int), (b = 0 ∨ b = 1) → s.phase = .idle → s.nextAnswer = .idle →
    exec (.displayL b) s = .next { s.consumeAnswer with
      phase := .idle, cur := some ⟨BitVec.ofInt 8 s.cfg.curX, BitVec.ofInt 16 s.cfg.curY⟩,
      trace := s.trace ++
        [.cmd 0x4E#8, .data [BitVec.ofInt 8 s.cfg.curX], .cmd 0x4F#8, .data [BitVec.ofInt 8 s.cfg.curY],
         .data [BitVec.ofInt 8 (s.cfg.curY / 256)], .cmd 0x24#8] ++
        ((List.range s.cfg.hPx).flatMap fun j => (List.range s.cfg.wb).map fun i =>
          Event.data [s.readByte (if b = 0 then .portrait else .landscape) ((s.cfg.wb - 1 - i) * s.cfg.hPx + j)]) ++
        [.cmd 0x20#8, .poll .idle],
      res := { s.res with status := .ok }, seq := .idle, latch := none }

/-- R149: `clear(colorByte)` in phase Idle with Idle at its wait: FB_LEN copies in one run, neither buffer read or written. -/
def Obligations.ClearCompletes : Prop :=
  ∀ (s : State) (v : Int), 0 ≤ v → v ≤ 255 → s.phase = .idle → s.nextAnswer = .idle →
    exec (.clear v) s = .next { s.consumeAnswer with
      phase := .idle, cur := some ⟨BitVec.ofInt 8 s.cfg.curX, BitVec.ofInt 16 s.cfg.curY⟩,
      trace := s.trace ++
        [.cmd 0x4E#8, .data [BitVec.ofInt 8 s.cfg.curX], .cmd 0x4F#8, .data [BitVec.ofInt 8 s.cfg.curY],
         .data [BitVec.ofInt 8 (s.cfg.curY / 256)], .cmd 0x24#8,
         .data (List.replicate s.cfg.fbLen (BitVec.ofInt 8 v)), .cmd 0x20#8, .poll .idle],
      res := { s.res with status := .ok }, seq := .idle, latch := none }

/-- R150, R113: `sleep` in phase Idle: two events, no wait, S.MODE, S.WIN and S.CUR kept. -/
def Obligations.SleepCompletes : Prop :=
  ∀ s : State, s.phase = .idle →
    exec .sleep s = .next { s with
      phase := .sleeping, trace := s.trace ++ [.cmd 0x10#8, .data [s.cfg.sleepModeByte]],
      res := { s.res with status := .ok }, seq := .idle, latch := none }

/-- R151, R223: each of the other seven protocol operations, its operands accepted, in a phase other than Idle: no bus event, the SEQ
flag, RES.STATUS, nothing else. -/
def Obligations.PhaseRefusal : Prop :=
  ∀ (s : State) (i : Instr), s.phase ≠ .idle → accepts s.cfg i = true →
    ((∃ xs ys xe ye, i = .setWindow xs ys xe ye) ∨ (∃ x y, i = .setCursor x y) ∨ i = .turnOn ∨
      (∃ b, i = .display b) ∨ (∃ b, i = .displayL b) ∨ (∃ v, i = .clear v) ∨ i = .sleep) →
    exec i s = .next { s with
      fault := { s.fault with seq := true }, res := { s.res with status := .phaseRefused } }

/-- R225, R228, V36: a request with an operand outside its range changes RES.STATUS and nothing else, whatever the phase. -/
def Obligations.BadOperandsChangeNothing : Prop :=
  ∀ (s : State) (i : Instr), i.isRequest = true → accepts s.cfg i = false →
    exec i s = .next { s with res := { s.res with status := .badRequest } }

/-- R225, R9, R114: which operands are accepted, spelled out for every host request. A text holds bytes by its type; a pixel source is
accepted whatever it answers, because its values are checked during the blit. -/
def Obligations.OperandLimits : Prop :=
  ∀ (c : Cfg) (b x y w h color v : Int) (text : List Byte) (src : PixelSource) (cap : Option Int) (center cv : Bool),
    (accepts c (.init v) = true ↔ isInt32 v) ∧
    (accepts c (.setWindow x y w h) = true ↔ isInt32 x ∧ isInt32 y ∧ isInt32 w ∧ isInt32 h) ∧
    (accepts c (.setCursor x y) = true ↔ isInt32 x ∧ isInt32 y) ∧
    accepts c .turnOn = true ∧
    (accepts c (.display b) = true ↔ b = 0 ∨ b = 1) ∧
    (accepts c (.displayL b) = true ↔ b = 0 ∨ b = 1) ∧
    (accepts c (.clear v) = true ↔ 0 ≤ v ∧ v ≤ 255) ∧
    accepts c .sleep = true ∧
    (accepts c (.setPixel b x y color) = true ↔
      (b = 0 ∨ b = 1) ∧ isInt32 x ∧ isInt32 y ∧ (color = 0 ∨ color = 1)) ∧
    (accepts c (.fillRect b x y w h color) = true ↔
      (b = 0 ∨ b = 1) ∧ isInt32 x ∧ isInt32 y ∧ isInt32 w ∧ isInt32 h ∧ (color = 0 ∨ color = 1)) ∧
    (accepts c (.fill b color) = true ↔ (b = 0 ∨ b = 1) ∧ (color = 0 ∨ color = 1)) ∧
    (accepts c (.blit b src x y w h) = true ↔
      (b = 0 ∨ b = 1) ∧ isInt32 x ∧ isInt32 y ∧ isInt32 w ∧ isInt32 h) ∧
    (accepts c (.stext b text x y v color) = true ↔
      (b = 0 ∨ b = 1) ∧ text.length ≤ c.txtMax ∧ isInt32 x ∧ isInt32 y ∧ isInt32 v ∧ (color = 0 ∨ color = 1)) ∧
    (accepts c (.autofit b text x y color cap center cv) = true ↔
      (b = 0 ∨ b = 1) ∧ text.length ≤ c.txtMax ∧ isInt32 x ∧ isInt32 y ∧ (color = 0 ∨ color = 1) ∧
      (∀ n, cap = some n → isInt32 n))

/-- R146 to R149, R153, R222: a refresh whose first sample answers Busy, whichever operation it ends: phase Refreshing, the whole picture
and the cursor sent before the sample, S.CUR at the reference point where the operation sets it, all else kept. The phase point is the
spec's own choice (R153, D25); that a step ends at a Busy sample is the model's (log entry 4). -/
def Obligations.RefreshStopsAtItsWait : Prop :=
  ∀ s : State, s.phase = .idle → s.nextAnswer = .busy →
    stopsBusy (exec .turnOn s)
      { s.consumeAnswer with phase := .refreshing, trace := s.trace ++ [.cmd 0x20#8] }
      .turnOn [.phase .idle, .status .ok] ∧
    (∀ b : Int, (b = 0 ∨ b = 1) → stopsBusy (exec (.display b) s)
      { s.consumeAnswer with
        phase := .refreshing, cur := some ⟨BitVec.ofInt 8 s.cfg.curX, BitVec.ofInt 16 s.cfg.curY⟩,
        trace := s.trace ++ refPointEvents s.cfg ++ [.cmd 0x24#8,
          .data ((List.range s.cfg.fbLen).map (s.readByte (if b = 0 then .portrait else .landscape))), .cmd 0x20#8] }
      (.display b) [.phase .idle, .status .ok]) ∧
    (∀ b : Int, (b = 0 ∨ b = 1) → stopsBusy (exec (.displayL b) s)
      { s.consumeAnswer with
        phase := .refreshing, cur := some ⟨BitVec.ofInt 8 s.cfg.curX, BitVec.ofInt 16 s.cfg.curY⟩,
        trace := s.trace ++ refPointEvents s.cfg ++ [.cmd 0x24#8] ++
          ((List.range s.cfg.hPx).flatMap fun j => (List.range s.cfg.wb).map fun i =>
            Event.data [s.readByte (if b = 0 then .portrait else .landscape) ((s.cfg.wb - 1 - i) * s.cfg.hPx + j)]) ++
          [.cmd 0x20#8] }
      (.displayL b) [.phase .idle, .status .ok]) ∧
    (∀ v : Int, 0 ≤ v → v ≤ 255 → stopsBusy (exec (.clear v) s)
      { s.consumeAnswer with
        phase := .refreshing, cur := some ⟨BitVec.ofInt 8 s.cfg.curX, BitVec.ofInt 16 s.cfg.curY⟩,
        trace := s.trace ++ refPointEvents s.cfg ++ [.cmd 0x24#8,
          .data (List.replicate s.cfg.fbLen (BitVec.ofInt 8 v)), .cmd 0x20#8] }
      (.clear v) [.phase .idle, .status .ok])

/-! ### The controller commands -/

/-- R101, R102, R103, R104, R105, R108, R109, R110, R112, R113: each register command run alone sends its command byte and its data
bytes, each a transaction of its own (R94), and changes nothing but TRACE (SEQ and the latch are at rest after it). -/
def Obligations.RegisterCommandsComplete : Prop :=
  ∀ (s : State) (xs xe : Byte) (ys ye : Half),
    exec .cmdDataEntry s = .next { s with
      trace := s.trace ++ [.cmd 0x11#8, .data [s.cfg.dataEntryByte]], seq := .idle, latch := none } ∧
    exec (.cmdWindowX xs xe) s = .next { s with
      trace := s.trace ++ [.cmd 0x44#8, .data [xs], .data [xe]], seq := .idle, latch := none } ∧
    exec (.cmdWindowY ys ye) s = .next { s with
      trace := s.trace ++ [.cmd 0x45#8, .data [ys.setWidth 8], .data [(ys >>> 8).setWidth 8],
        .data [ye.setWidth 8], .data [(ye >>> 8).setWidth 8]], seq := .idle, latch := none } ∧
    exec (.cmdCursorX xs) s = .next { s with
      trace := s.trace ++ [.cmd 0x4E#8, .data [xs]], seq := .idle, latch := none } ∧
    exec (.cmdCursorY ys) s = .next { s with
      trace := s.trace ++ [.cmd 0x4F#8, .data [ys.setWidth 8], .data [(ys >>> 8).setWidth 8]],
      seq := .idle, latch := none } ∧
    exec .cmdDisplayOption s = .next { s with
      trace := s.trace ++ .cmd 0x37#8 ::
        (List.range 10).map (fun k => Event.data [if k = s.cfg.optNzIndex then s.cfg.optNzByte else 0#8]),
      seq := .idle, latch := none } ∧
    exec .cmdBorder s = .next { s with
      trace := s.trace ++ [.cmd 0x3C#8, .data [s.cfg.borderByte]], seq := .idle, latch := none } ∧
    exec .cmdUpdateCtrl s = .next { s with
      trace := s.trace ++ [.cmd 0x22#8, .data [s.cfg.updateCtrlByte]], seq := .idle, latch := none } ∧
    exec .cmdDeepSleep s = .next { s with
      trace := s.trace ++ [.cmd 0x10#8, .data [s.cfg.sleepModeByte]], seq := .idle, latch := none } ∧
    exec .cmdFullCtrl s = .next { s with
      trace := s.trace ++ [.cmd s.cfg.fullCtrlCmd, .data [s.cfg.fullCtrlByte]], seq := .idle, latch := none }

/-- R106, R94: 0x24 sends FB_LEN bytes: a buffer verbatim or copies of a byte in one run, a buffer through the landscape transform
byte by byte in the order of R148. -/
def Obligations.WriteRamCommandCompletes : Prop :=
  ∀ (s : State) (b : Buf) (v : Byte),
    exec (.cmdWriteRam (.verbatim b)) s = .next { s with
      trace := s.trace ++ [.cmd 0x24#8, .data ((List.range s.cfg.fbLen).map (s.readByte b))],
      seq := .idle, latch := none } ∧
    exec (.cmdWriteRam (.constant v)) s = .next { s with
      trace := s.trace ++ [.cmd 0x24#8, .data (List.replicate s.cfg.fbLen v)], seq := .idle, latch := none } ∧
    exec (.cmdWriteRam (.rotated b)) s = .next { s with
      trace := s.trace ++ .cmd 0x24#8 ::
        ((List.range s.cfg.hPx).flatMap fun j => (List.range s.cfg.wb).map fun i =>
          Event.data [s.readByte b ((s.cfg.wb - 1 - i) * s.cfg.hPx + j)]),
      seq := .idle, latch := none }

/-- R100, R107, R111: the three commands followed by a wait, with Idle at it: exactly 153 waveform bytes after 0x32, none after 0x12
and 0x20. -/
def Obligations.WaitingCommandsComplete : Prop :=
  ∀ s : State, s.nextAnswer = .idle →
    exec .cmdSwReset s = .next { s.consumeAnswer with
      trace := s.trace ++ [.cmd 0x12#8, .poll .idle], seq := .idle, latch := none } ∧
    exec .cmdActivate s = .next { s.consumeAnswer with
      trace := s.trace ++ [.cmd 0x20#8, .poll .idle], seq := .idle, latch := none } ∧
    exec .cmdWriteLut s = .next { s.consumeAnswer with
      trace := s.trace ++ .cmd 0x32#8 :: (List.range 153).map (fun k => Event.data [s.cfg.lut.getD k 0#8]) ++ [.poll .idle],
      seq := .idle, latch := none }

/-- R258, R152: only LUT[0 .. 152] matter: another table with the same first 153 bytes, whatever its length and its rest, gives
every instruction the same effect. -/
def Obligations.WaveformTailIsNeverRead : Prop :=
  ∀ (s t : State) (i : Instr) (table : List Byte), s.cfg.lut.take 153 = table.take 153 → exec i s = .next t →
    exec i { s with cfg := { s.cfg with lut := table } } = .next { t with cfg := { t.cfg with lut := table } }

/-! ### Frame Buffer Pair -/

/-- R170: `setPixel` inside the buffer replaces one bit of one byte; every other byte, the other buffer and all other state stay. -/
def Obligations.SetPixelCompletes : Prop :=
  ∀ (s : State) (b x y color : Int), accepts s.cfg (.setPixel b x y color) = true →
    inside s.cfg (bufOf b) x y = true →
    ∃ m, exec (.setPixel b x y color) s
        = .next { s.setMem (bufOf b) m with res := { s.res with status := .ok } } ∧
      ∀ k j, (memByte (bufOf b) k m).getLsbD j =
        if k = pixelByte s.cfg (bufOf b) x.toNat y.toNat ∧ j = pixelBit (bufOf b) x.toNat y.toNat then decide (color = 1)
        else (s.readByte (bufOf b) k).getLsbD j

/-- R61, R62, R63: where a pixel lies: the two packings, spelled out for a legal build. -/
def Obligations.PixelPacking : Prop :=
  ∀ (s : State) (x y : Nat), s.cfg.legal = true →
    (x < s.cfg.wPx → y < s.cfg.hPx →
      s.getPixel .portrait x y
        = some ((memByte .portrait (y * (s.cfg.wPx / 8) + x / 8) s.fbP).getLsbD (7 - x % 8))) ∧
    (x < s.cfg.hPx → y < s.cfg.wPx →
      s.getPixel .landscape x y
        = some ((memByte .landscape (y / 8 * s.cfg.hPx + x) s.fbL).getLsbD (y % 8)))

/-- R65, R224: `setPixel` outside the buffer changes RES.STATUS and nothing else. -/
def Obligations.SetPixelOutsideIsDropped : Prop :=
  ∀ (s : State) (b x y color : Int), accepts s.cfg (.setPixel b x y color) = true →
    (x < 0 ∨ y < 0 ∨ (s.cfg.width (bufOf b) : Int) ≤ x ∨ (s.cfg.height (bufOf b) : Int) ≤ y) →
    exec (.setPixel b x y color) s = .next { s with res := { s.res with status := .oobRejected } }

/-- R171: the clipped rectangle the model paints is the pseudocode's loop over every pixel, for every extent: same buffer, same answer. -/
def Obligations.ClippedRectIsTheLoop : Prop :=
  ∀ (c : Cfg) (b : Buf) (x y w h : Int) (color : Bool) (v : Canvas),
    rect c b x y w h color v = rectLoop c b x y w h color v

/-- R171: `fillRect` paints exactly the pixels of the rectangle that lie inside, keeps every other pixel and every byte that holds
none of them, and is OK exactly when no pixel fell outside. -/
def Obligations.FillRectCompletes : Prop :=
  ∀ (s : State) (b x y w h color : Int), s.cfg.legal = true → accepts s.cfg (.fillRect b x y w h color) = true →
    ∃ m st, exec (.fillRect b x y w h color) s = .next { s.setMem (bufOf b) m with res := { s.res with status := st } } ∧
      (rectFits s.cfg (bufOf b) x y w h → st = .ok) ∧ (¬ rectFits s.cfg (bufOf b) x y w h → st = .oobRejected) ∧
      (∀ px py, inside s.cfg (bufOf b) px py = true →
        (inRect x y w h px py → (s.setMem (bufOf b) m).getPixel (bufOf b) px py = some (decide (color = 1))) ∧
        (¬ inRect x y w h px py → (s.setMem (bufOf b) m).getPixel (bufOf b) px py = s.getPixel (bufOf b) px py)) ∧
      (∀ k, (∀ px py, inside s.cfg (bufOf b) px py = true → inRect x y w h px py →
          pixelByte s.cfg (bufOf b) px.toNat py.toNat ≠ k) → memByte (bufOf b) k m = s.readByte (bufOf b) k)

/-- R172: `fill` writes every byte of the buffer, 0xFF or 0x00, and nothing else. -/
def Obligations.FillCompletes : Prop :=
  ∀ (s : State) (b color : Int), (b = 0 ∨ b = 1) → (color = 0 ∨ color = 1) →
    ∃ m, exec (.fill b color) s = .next { s.setMem (bufOf b) m with res := { s.res with status := .ok } } ∧
      ∀ k < s.cfg.fbLen, Memory.find k m = some (if color = 1 then 0xFF#8 else 0x00#8)

/-- R173: a `blit` whose source answers 0 or 1 throughout writes every destination pixel inside the buffer, ink and background alike, and
keeps every other pixel. -/
def Obligations.BlitCompletes : Prop :=
  ∀ (s : State) (b : Int) (src : PixelSource) (x y w h : Int), s.cfg.legal = true →
    accepts s.cfg (.blit b src x y w h) = true →
    (∀ n < w.toNat * h.toNat, sourceAt src n = 0#8 ∨ sourceAt src n = 1#8) →
    ∃ m st, exec (.blit b src x y w h) s = .next { s.setMem (bufOf b) m with res := { s.res with status := st } } ∧
      (rectFits s.cfg (bufOf b) x y w h → st = .ok) ∧ (¬ rectFits s.cfg (bufOf b) x y w h → st = .oobRejected) ∧
      (∀ px py, inside s.cfg (bufOf b) px py = true →
        (inRect x y w h px py → (s.setMem (bufOf b) m).getPixel (bufOf b) px py
          = some (decide (sourceAt src ((py - y).toNat * w.toNat + (px - x).toNat) = 1#8))) ∧
        (¬ inRect x y w h px py → (s.setMem (bufOf b) m).getPixel (bufOf b) px py = s.getPixel (bufOf b) px py)) ∧
      (∀ k, (∀ px py, inside s.cfg (bufOf b) px py = true → inRect x y w h px py →
          pixelByte s.cfg (bufOf b) px.toNat py.toNat ≠ k) → memByte (bufOf b) k m = s.readByte (bufOf b) k)

/-- R173, R225, R265: a `blit` whose source gives a value other than 0 and 1 ends with BadRequest; the pixels before the first such point, in
row-major order, stay written, no pixel from it on is, and nothing else changes. -/
def Obligations.BlitStopsAtABadAnswer : Prop :=
  ∀ (s : State) (b : Int) (src : PixelSource) (x y w h : Int) (bad : Nat), s.cfg.legal = true →
    accepts s.cfg (.blit b src x y w h) = true → bad < w.toNat * h.toNat →
    (∀ n < bad, sourceAt src n = 0#8 ∨ sourceAt src n = 1#8) → sourceAt src bad ≠ 0#8 → sourceAt src bad ≠ 1#8 →
    ∃ m, exec (.blit b src x y w h) s = .next { s.setMem (bufOf b) m with res := { s.res with status := .badRequest } } ∧
      (∀ px py, inside s.cfg (bufOf b) px py = true →
        (inRect x y w h px py ∧ (py - y).toNat * w.toNat + (px - x).toNat < bad →
          (s.setMem (bufOf b) m).getPixel (bufOf b) px py
            = some (decide (sourceAt src ((py - y).toNat * w.toNat + (px - x).toNat) = 1#8))) ∧
        (¬ (inRect x y w h px py ∧ (py - y).toNat * w.toNat + (px - x).toNat < bad) →
          (s.setMem (bufOf b) m).getPixel (bufOf b) px py = s.getPixel (bufOf b) px py)) ∧
      (∀ k, (∀ px py, inside s.cfg (bufOf b) px py = true → inRect x y w h px py →
          (py - y).toNat * w.toNat + (px - x).toNat < bad → pixelByte s.cfg (bufOf b) px.toNat py.toNat ≠ k) →
        memByte (bufOf b) k m = s.readByte (bufOf b) k)

/-- R174: the read-back property: after `fill(b, 1)` and a one-pixel ink blit, or `setPixel`, at (x, y), exactly that pixel reads ink. -/
def Obligations.InkPixelReadsBack : Prop :=
  ∀ (s : State) (b x y : Int) (src : PixelSource), s.cfg.legal = true → (b = 0 ∨ b = 1) →
    inRange x = true → inRange y = true → inside s.cfg (bufOf b) x y = true → sourceAt src 0 = 0#8 →
    ∃ s1 s2 s3, exec (.fill b 1) s = .next s1 ∧ exec (.blit b src x y 1 1) s1 = .next s2 ∧
      exec (.setPixel b x y 0) s1 = .next s3 ∧ s2.res.status = .ok ∧ s3.res.status = .ok ∧
      ∀ px py, inside s.cfg (bufOf b) px py = true →
        s2.getPixel (bufOf b) px py = some (decide (¬ (px = x ∧ py = y))) ∧
        s3.getPixel (bufOf b) px py = some (decide (¬ (px = x ∧ py = y)))

/-- R66, R175: a drawing request leaves the other buffer, every control register, TRACE and the sequencer as they were, in every phase. -/
def Obligations.DrawingFrame : Prop :=
  ∀ (s t : State) (i : Instr) (b : Int),
    ((∃ x y color, i = .setPixel b x y color) ∨ (∃ x y w h color, i = .fillRect b x y w h color) ∨
      (∃ color, i = .fill b color) ∨ (∃ src x y w h, i = .blit b src x y w h) ∨
      (∃ text x y scale color, i = .stext b text x y scale color) ∨
      (∃ text x y color cap center cv, i = .autofit b text x y color cap center cv)) →
    exec i s = .next t →
      t = { s.setMem (bufOf b) (t.mem (bufOf b)) with res := t.res }

/-- R27, R36: a protocol request or a bus command leaves both buffers, RES.SCALE, RES.LINES and the configuration as they were. -/
def Obligations.ProtocolFrame : Prop :=
  ∀ (s t : State) (i : Instr),
    (i.isRequest = false ∨ (∃ mode, i = .init mode) ∨ (∃ xs ys xe ye, i = .setWindow xs ys xe ye) ∨
      (∃ x y, i = .setCursor x y) ∨ i = .turnOn ∨ (∃ b, i = .display b) ∨ (∃ b, i = .displayL b) ∨
      (∃ v, i = .clear v) ∨ i = .sleep) →
    exec i s = .next t →
      t.fbP = s.fbP ∧ t.fbL = s.fbL ∧ t.res.scale = s.res.scale ∧ t.res.lines = s.res.lines ∧ t.cfg = s.cfg ∧ t.port = s.port

/-! ### The rotated stream -/

/-- R148: the landscape transform is a bijection of the stream positions onto the buffer's indices: every byte is sent exactly once. -/
def Obligations.LandscapeTransformIsABijection : Prop :=
  ∀ c : Cfg, c.legal = true →
    (∀ p < c.fbLen, landscapeIndex c p < c.fbLen) ∧
    (∀ p < c.fbLen, ∀ q < c.fbLen, landscapeIndex c p = landscapeIndex c q → p = q) ∧
    (∀ k < c.fbLen, ∃ p < c.fbLen, landscapeIndex c p = k)

/-- V50, R11, R61, R62, R147, R148: when FB[P] holds the picture of FB[L] turned by 90°, `displayLandscape(L)` and `display(P)` append the
same logical stream to TRACE: cursor, 0x24, the bytes of FB[P] in ascending order one by one, refresh. -/
def Obligations.RotatedPicturesStreamAlike : Prop :=
  ∀ s : State, s.cfg.legal = true → s.phase = .idle → s.nextAnswer = .idle →
    (∀ x y : Nat, x < s.cfg.hPx → y < s.cfg.wPx →
      s.getPixel .landscape x y = s.getPixel .portrait ((s.cfg.wPx : Int) - 1 - y) x) →
    ∃ t u sentL sentP, exec (.displayL 1) s = .next t ∧ exec (.display 0) s = .next u ∧
      t.trace = s.trace ++ sentL ∧ u.trace = s.trace ++ sentP ∧ logicalStream sentL = logicalStream sentP ∧
      logicalStream sentP = refPointEvents s.cfg ++ [.cmd 0x24#8] ++
        (List.range s.cfg.fbLen).map (fun k => Event.data [s.readByte .portrait k]) ++ [.cmd 0x20#8, .poll .idle]

/-! ### Text Layout Engine -/

/-- R192, R190, R193, R65: `scaledTextBlit` paints exactly the blocks of the raster pixels with ink, at the effective scale
max(scale, 1), keeps every other pixel, and is OK exactly when every block lies inside. -/
def Obligations.ScaledTextCompletes : Prop :=
  ∀ (s : State) (b : Int) (text : List Byte) (x y scale color : Int), s.cfg.legal = true →
    accepts s.cfg (.stext b text x y scale color) = true →
    ∃ m st, exec (.stext b text x y scale color) s
        = .next { s.setMem (bufOf b) m with res := { s.res with status := st } } ∧
      (textFits s.cfg (bufOf b) text x y (max scale 1) → st = .ok) ∧
      (¬ textFits s.cfg (bufOf b) text x y (max scale 1) → st = .oobRejected) ∧
      (∀ px py, inside s.cfg (bufOf b) px py = true →
        (textCovers s.cfg text x y (max scale 1) px py →
          (s.setMem (bufOf b) m).getPixel (bufOf b) px py = some (decide (color = 1))) ∧
        (¬ textCovers s.cfg text x y (max scale 1) px py →
          (s.setMem (bufOf b) m).getPixel (bufOf b) px py = s.getPixel (bufOf b) px py)) ∧
      (∀ k, (∀ px py, inside s.cfg (bufOf b) px py = true → textCovers s.cfg text x y (max scale 1) px py →
          pixelByte s.cfg (bufOf b) px.toNat py.toNat ≠ k) → memByte (bufOf b) k m = s.readByte (bufOf b) k)

/-- R193: every scale of 1 or less gives what scale 1 gives. -/
def Obligations.ScaleAtMostOneIsUnscaled : Prop :=
  ∀ (s : State) (b : Int) (text : List Byte) (x y scale color : Int), inRange scale = true → scale ≤ 1 →
    exec (.stext b text x y scale color) s = exec (.stext b text x y 1 color) s

/-- R194, R30: `autoFitText` writes the chosen scale and lines to RES, paints each chosen line where step 6 puts it (horizontal centring in TXT_W, vertical
centring in height(b), both by floor), keeps every other pixel, and changes nothing else. -/
def Obligations.AutoFitCompletes : Prop :=
  ∀ (s : State) (b : Int) (text : List Byte) (x y color : Int) (cap : Option Int) (center cv : Bool),
    s.cfg.legal = true → accepts s.cfg (.autofit b text x y color cap center cv) = true →
    ∃ (S : Nat) (lines : List (List Byte)) (m : Memory) (st : Status) (top : Int), fitText s.cfg text cap = (S, lines) ∧
      (cv = true → top = ((s.cfg.height (bufOf b) : Int) - lines.length * 8 * S) / 2) ∧ (cv = false → top = y) ∧
      exec (.autofit b text x y color cap center cv) s
        = .next { s.setMem (bufOf b) m with res := { status := st, scale := S, lines := lines } } ∧
      ((∀ (li : Nat) (line : List Byte), lines[li]? = some line →
          textFits s.cfg (bufOf b) line (lineLeft s.cfg x center S line) (top + li * 8 * S) S) → st = .ok) ∧
      ((∃ (li : Nat) (line : List Byte), lines[li]? = some line ∧
          ¬ textFits s.cfg (bufOf b) line (lineLeft s.cfg x center S line) (top + li * 8 * S) S) → st = .oobRejected) ∧
      (∀ px py, inside s.cfg (bufOf b) px py = true →
        ((∃ (li : Nat) (line : List Byte), lines[li]? = some line ∧
            textCovers s.cfg line (lineLeft s.cfg x center S line) (top + li * 8 * S) S px py) →
          (s.setMem (bufOf b) m).getPixel (bufOf b) px py = some (decide (color = 1))) ∧
        (¬ (∃ (li : Nat) (line : List Byte), lines[li]? = some line ∧
            textCovers s.cfg line (lineLeft s.cfg x center S line) (top + li * 8 * S) S px py) →
          (s.setMem (bufOf b) m).getPixel (bufOf b) px py = s.getPixel (bufOf b) px py)) ∧
      (∀ k, (∀ px py, inside s.cfg (bufOf b) px py = true →
          (∃ (li : Nat) (line : List Byte), lines[li]? = some line ∧
            textCovers s.cfg line (lineLeft s.cfg x center S line) (top + li * 8 * S) S px py) →
          pixelByte s.cfg (bufOf b) px.toNat py.toNat ≠ k) → memByte (bufOf b) k m = s.readByte (bufOf b) k)

/-- R195, R198, R199, R200: the chosen scale is the largest of 1 .. maxPossible at which the wrap fits, with its lines; if there is none, scale 3 with the
whole text as one line. -/
def Obligations.FitIsTheLargestScale : Prop :=
  ∀ (c : Cfg) (text : List Byte) (cap : Option Int),
    (∃ S lines, fitText c text cap = (S, lines) ∧ 1 ≤ S ∧ (S : Int) ≤ maxScale c cap ∧
      wrapAll (c.txtW / (8 * S)) ((splitLines text).map trim) = some lines ∧ lines.length ≤ c.txtH / (8 * S) ∧
      ∀ S' : Nat, S < S' → (S' : Int) ≤ maxScale c cap →
        ∀ ls, wrapAll (c.txtW / (8 * S')) ((splitLines text).map trim) = some ls → c.txtH / (8 * S') < ls.length) ∨
    (fitText c text cap = (3, [text]) ∧
      ∀ S' : Nat, 1 ≤ S' → (S' : Int) ≤ maxScale c cap →
        ∀ ls, wrapAll (c.txtW / (8 * S')) ((splitLines text).map trim) = some ls → c.txtH / (8 * S') < ls.length)

/-- R195, R191, R196, R197: what the scale search starts from. The largest candidate is floored to 1 before the cap is applied; cutting at
line breaks loses nothing; `trim` removes exactly the leading and the trailing whitespace; `words` are the maximal runs of other bytes, in
order. The line break 0x0A, the five whitespace bytes and the order of floor and cap are the spec's own choices (D35, D41). -/
def Obligations.FitInputs : Prop :=
  (∀ (c : Cfg) (v : Int),
    maxScale c none = max (min (c.txtW : Int) c.txtH / 8) 1 ∧ maxScale c (some v) = min (max (min (c.txtW : Int) c.txtH / 8) 1) v) ∧
  (∀ text : List Byte,
    (∀ p ∈ splitLines text, 0x0A#8 ∉ p) ∧ List.intercalate [0x0A#8] (splitLines text) = text) ∧
  (∀ before p after : List Byte, (∀ c ∈ before, isWhite c) → (∀ c ∈ after, isWhite c) →
    (∀ c, p.head? = some c → ¬ isWhite c) → (∀ c, p.getLast? = some c → ¬ isWhite c) → trim (before ++ p ++ after) = p) ∧
  (∀ gap : List Byte, (∀ c ∈ gap, isWhite c) → words gap = []) ∧
  (∀ gap w rest : List Byte, (∀ c ∈ gap, isWhite c) → w ≠ [] → (∀ c ∈ w, ¬ isWhite c) →
    (∀ c, rest.head? = some c → isWhite c) → words (gap ++ w ++ rest) = w :: words rest)

/-- R197, E1: the greedy wrap. Every output line is non-empty, at most maxChars long, and its words joined by one space; the next line's
first word did not fit behind it; the wrap is rejected exactly when some word is longer than maxChars. The join is the spec's own choice
(D37). -/
def Obligations.WrappedLinesFit : Prop :=
  ∀ (p : List Byte) (maxChars : Nat),
    (∀ lines, wrapLine p maxChars = some lines →
      (∀ l ∈ lines, l ≠ [] ∧ l.length ≤ maxChars ∧ List.intercalate [0x20#8] (words l) = l) ∧
      ∀ (k : Nat) (l l' w : List Byte), lines[k]? = some l → lines[k + 1]? = some l' → (words l').head? = some w →
        maxChars < l.length + 1 + w.length) ∧
    (wrapLine p maxChars = none ↔ ∃ w ∈ words p, maxChars < w.length)

/-- R197: the wrap keeps every word, in order, and splits none. -/
def Obligations.WrapKeepsTheWords : Prop :=
  ∀ (p : List Byte) (maxChars : Nat) (lines : List (List Byte)), wrapLine p maxChars = some lines →
    lines.flatMap words = words p

/-! ### Invariants and whole-machine rules -/

/-- R271, R12, R22: a run that has ended has exactly one status for each of its requests, the last of them in RES.STATUS; begun with S.FAULT
empty, its end is good exactly when no request ended with TIMEOUT, PHASE_REFUSED or BAD_REQUEST. The requests of a run are the frames at
the port (the model's, log entry 5). -/
def Obligations.RunEndsWithOneStatusEach : Prop :=
  ∀ (n : Nat) (s t : State), runEnds n s t →
    (statuses n s).length = s.port.length ∧
    (s.port ≠ [] → (statuses n s).getLast? = some t.res.status) ∧
    (s.faultFree = true →
      (goodEnd n s t ↔ ∀ st ∈ statuses n s, st ≠ .timeout ∧ st ≠ .phaseRefused ∧ st ≠ .badRequest))

/-- R41, R250: what the engine's reset leaves, for every configuration: the values the table of R41 states, no bus event. -/
def Obligations.ResetValues : Prop :=
  ∀ c : Cfg, (State.resetWith c).phase = .uninitialized ∧ (State.resetWith c).mode = .none ∧
    (State.resetWith c).fault = ⟨false, false⟩ ∧ (State.resetWith c).win = none ∧ (State.resetWith c).cur = none ∧
    (State.resetWith c).trace = [] ∧ (State.resetWith c).res.status = .ok ∧ (State.resetWith c).latch = none ∧
    (State.resetWith c).seq = .idle ∧ (State.resetWith c).csAsserted = false ∧ (State.resetWith c).rstAsserted = false ∧
    State.reset = State.resetWith Config.reference

/-- R41, R20: the invariant holds right after reset, for every legal configuration. -/
def Obligations.ResetMeetsInvariant : Prop :=
  (∀ c : Cfg, c.legal = true → (State.resetWith c).inv) ∧ State.reset.inv

/-- R20, R21, R27, R29, R34, R222: every step keeps the invariant: buffers in canonical form within FB_LEN; between operations a rest
phase, or a wait phase marked by the TIMEOUT flag; inside an operation the sequencer at a live wait of a sequence that ends at rest; no
reset pulse left open. -/
def Obligations.StepKeepsInvariant : Prop :=
  ∀ s t : State, s.inv → step s = .next t → t.inv

/-- R12, R220: under a legal configuration no step stops: every ending is a next state. -/
def Obligations.LegalStepAlwaysAnswers : Prop :=
  ∀ s : State, s.cfg.legal = true → ∃ t, step s = .next t

/-- R22, R28, R31, R230: no step changes the configuration, shortens TRACE or clears a fault flag. -/
def Obligations.HistoryIsKept : Prop :=
  ∀ s t : State, step s = .next t →
    t.cfg = s.cfg ∧ s.trace <+: t.trace ∧
    (s.fault.timeout = true → t.fault.timeout = true) ∧ (s.fault.seq = true → t.fault.seq = true)

/-- R150, R151, R254: outside Idle every request but `init` leaves S.PHASE, S.MODE, S.WIN, S.CUR and TRACE alone: only `init` leaves
Sleeping, Uninitialized or a timed-out phase, and nothing reaches the bus before it. -/
def Obligations.OnlyInitLeavesARefusingPhase : Prop :=
  ∀ (s t : State) (i : Instr), s.phase ≠ .idle → i.isRequest = true → (∀ mode, i ≠ .init mode) → exec i s = .next t →
    t.phase = s.phase ∧ t.mode = s.mode ∧ t.win = s.win ∧ t.cur = s.cur ∧ t.trace = s.trace

/-- R28: TRACE is never read to decide a step: a longer past changes nothing but TRACE itself. -/
def Obligations.TraceIsNeverRead : Prop :=
  ∀ (s t : State) (past : List Event), step s = .next t → step (s.withPast past) = .next (t.withPast past)

/-- R21, R23, R24: S.MODE, S.WIN and S.CUR are never read: other values of them change no event, no phase, no result, no flag, no buffer. -/
def Obligations.ModeAndRecordsAreNeverRead : Prop :=
  ∀ (s t : State) (m : Mode) (w : Option Window) (c : Option Cursor), step s = .next t →
    ∃ m' w' c', step { s with mode := m, win := w, cur := c } = .next { t with mode := m', win := w', cur := c' }

/-- R93, R92, R29: TRACE on the pins, event by event: a command or a data run is discriminator, chip-select asserted, the bytes in order,
chip-select deasserted; the reset edges drive the reset line. So chip-select is deasserted in every state, and the reset line is asserted
right after RstLow alone: under the invariant it is deasserted. The order of discriminator and chip-select is the spec's own choice (D6). -/
def Obligations.LinesFollowTheTrace : Prop :=
  ∀ s : State,
    (∀ c : Byte, (s.emit [.cmd c]).pinHistory
      = s.pinHistory ++ [.dc s.cfg.dcCmd, .cs s.cfg.csActive, .shift c, .cs (!s.cfg.csActive)]) ∧
    (∀ bs : List Byte, (s.emit [.data bs]).pinHistory
      = s.pinHistory ++ [.dc (!s.cfg.dcCmd), .cs s.cfg.csActive] ++ bs.map .shift ++ [.cs (!s.cfg.csActive)]) ∧
    (s.emit [.rstLow]).pinHistory = s.pinHistory ++ [.rst s.cfg.rstActive] ∧
    (s.emit [.rstHigh]).pinHistory = s.pinHistory ++ [.rst (!s.cfg.rstActive)] ∧
    s.csAsserted = false ∧
    (s.emit [.rstLow]).rstAsserted = true ∧
    (s.emit [.rstHigh]).rstAsserted = false ∧
    (s.inv → s.rstAsserted = false)

/-- R115a, R255: the window byte of x is x's 8-pixel column modulo 256: equal inside every 8-wide band, x / 8 from 0 to 2047. -/
def Obligations.WindowTruncation : Prop :=
  ∀ x x' : Int,
    (windowX x = windowX x' ↔ (x / 8) % 256 = (x' / 8) % 256) ∧ (0 ≤ x → x < 2048 → ((windowX x).toNat : Int) = x / 8)
end

