-- ==== Sys2Proof/Laws/Memory.lean ====
section
/-!
SUPPORT. Frame-buffer memory: a read after a write, and that every operation keeps the canonical form (strictly rising
indices, all below a bound).
-/

namespace Sys2Proof.Machine

@[simp] theorem Memory.find_nil (k : Nat) : Memory.find k [] = none := rfl

@[simp] theorem Memory.find_cons (k : Nat) (c : Host.Cell) (m : Memory) :
    Memory.find k (c :: m) = if c.1 = k then some c.2 else Memory.find k m := rfl

/-- A read after a write to the same index gives the byte written. -/
@[simp] theorem Memory.find_write_same (k : Nat) (v : Byte) (m : Memory) : Memory.find k (Memory.write k v m) = some v := by
  induction m with
  | nil => simp [Memory.write]
  | cons c m ih =>
    unfold Memory.write
    split
    · simp
    · split
      · simp
      · rename_i h
        simp [ih, Ne.symm h]

/-- A write leaves every other index alone. -/
theorem Memory.find_write_other (k j : Nat) (v : Byte) (m : Memory) (h : j ≠ k) :
    Memory.find j (Memory.write k v m) = Memory.find j m := by
  induction m with
  | nil => simp [Memory.write, Ne.symm h]
  | cons c m ih =>
    unfold Memory.write
    split
    · simp [Ne.symm h]
    · split
      · rename_i hc
        simp [← hc, Ne.symm h]
      · simp [ih]

/-- The cells a write leaves: the one written and old ones. -/
theorem Memory.mem_write {k : Nat} {v : Byte} {m : Memory} {c : Host.Cell} (h : c ∈ Memory.write k v m) :
    c = (k, v) ∨ c ∈ m := by
  induction m with
  | nil => simpa [Memory.write] using h
  | cons d m ih =>
    unfold Memory.write at h
    split at h
    · simpa using h
    · split at h
      · rcases List.mem_cons.1 h with h | h
        · exact .inl h
        · exact .inr (List.mem_cons_of_mem _ h)
      · rcases List.mem_cons.1 h with h | h
        · exact .inr (h ▸ List.mem_cons_self)
        · exact (ih h).imp id (List.mem_cons_of_mem _)

/-- A write keeps the canonical form. -/
theorem Memory.write_wf {k : Nat} {v : Byte} {m : Memory} (h : Memory.wf m) : Memory.wf (Memory.write k v m) := by
  induction m with
  | nil => simp [Memory.write]
  | cons c m ih =>
    have hc := List.pairwise_cons.1 h
    unfold Memory.write
    split
    · rename_i hk
      refine List.pairwise_cons.2 ⟨fun d hd => ?_, h⟩
      rcases List.mem_cons.1 hd with rfl | hd
      · exact hk
      · exact lt_trans hk (hc.1 d hd)
    · split
      · rename_i hk
        exact List.pairwise_cons.2 ⟨fun d hd => hk ▸ hc.1 d hd, hc.2⟩
      · rename_i hlt hne
        refine List.pairwise_cons.2 ⟨fun d hd => ?_, ih hc.2⟩
        rcases Memory.mem_write hd with rfl | hd
        · exact lt_of_le_of_ne (Nat.le_of_not_lt hlt) (Ne.symm hne)
        · exact hc.1 d hd

/-- A write below the bound keeps every index below it. -/
theorem Memory.write_within {n k : Nat} {v : Byte} {m : Memory} (hk : k < n) (h : Memory.within n m) :
    Memory.within n (Memory.write k v m) := by
  intro c hc
  rcases Memory.mem_write hc with rfl | hc
  · exact hk
  · exact h c hc

/-- Filling gives the canonical form. -/
theorem Memory.uniform_wf (n : Nat) (v : Byte) : Memory.wf (Memory.uniform n v) := by
  have h : (List.range n).Pairwise (· < ·) := List.pairwise_lt_range
  simpa [Memory.wf, Memory.uniform, List.pairwise_map] using h

/-- Filling writes indices below the bound only. -/
theorem Memory.uniform_within (n : Nat) (v : Byte) : Memory.within n (Memory.uniform n v) := by
  intro c hc
  simp only [Memory.uniform, List.mem_map, List.mem_range] at hc
  obtain ⟨k, hk, rfl⟩ := hc
  exact hk

/-- A lookup in cells made from a list of indices. -/
theorem Memory.find_map_const (v : Byte) (k : Nat) (l : List Nat) :
    Memory.find k (l.map fun i => (i, v)) = if k ∈ l then some v else none := by
  induction l with
  | nil => simp
  | cons i l ih =>
    by_cases h : i = k <;> simp [ih, h, eq_comm (a := k)]

/-- After filling, every index below the bound holds the byte. -/
theorem Memory.find_uniform (n k : Nat) (v : Byte) : Memory.find k (Memory.uniform n v) = if k < n then some v else none := by
  rw [Memory.uniform, Memory.find_map_const]
  simp

/-- The byte read after a write. -/
theorem memByte_write (b : Buf) (j k : Nat) (v : Byte) (m : Memory) :
    memByte b j (Memory.write k v m) = if j = k then v else memByte b j m := by
  unfold memByte
  split
  · next h => subst h; simp
  · next h => rw [Memory.find_write_other _ _ _ _ h]

end Sys2Proof.Machine
end

