-- ==== Sys2Proof/Laws/State.lean ====
section
/-!
SUPPORT. One lemma per field per update of State, all by rfl, so that no proof unfolds a record update; then the fields of
the composite updates.
-/

namespace Sys2Proof.Machine

/-! ### setStatus -/

@[simp] theorem State.setStatus_cfg (s : State) (st : Status) : (s.setStatus st).cfg = s.cfg := rfl
@[simp] theorem State.setStatus_phase (s : State) (st : Status) : (s.setStatus st).phase = s.phase := rfl
@[simp] theorem State.setStatus_mode (s : State) (st : Status) : (s.setStatus st).mode = s.mode := rfl
@[simp] theorem State.setStatus_fault (s : State) (st : Status) : (s.setStatus st).fault = s.fault := rfl
@[simp] theorem State.setStatus_win (s : State) (st : Status) : (s.setStatus st).win = s.win := rfl
@[simp] theorem State.setStatus_cur (s : State) (st : Status) : (s.setStatus st).cur = s.cur := rfl
@[simp] theorem State.setStatus_fbP (s : State) (st : Status) : (s.setStatus st).fbP = s.fbP := rfl
@[simp] theorem State.setStatus_fbL (s : State) (st : Status) : (s.setStatus st).fbL = s.fbL := rfl
@[simp] theorem State.setStatus_trace (s : State) (st : Status) : (s.setStatus st).trace = s.trace := rfl
@[simp] theorem State.setStatus_res (s : State) (st : Status) : (s.setStatus st).res = { s.res with status := st } := rfl
@[simp] theorem State.setStatus_latch (s : State) (st : Status) : (s.setStatus st).latch = s.latch := rfl
@[simp] theorem State.setStatus_seq (s : State) (st : Status) : (s.setStatus st).seq = s.seq := rfl
@[simp] theorem State.setStatus_port (s : State) (st : Status) : (s.setStatus st).port = s.port := rfl
@[simp] theorem State.setStatus_answers (s : State) (st : Status) : (s.setStatus st).answers = s.answers := rfl
@[simp] theorem State.setStatus_draws (s : State) (st : Status) : (s.setStatus st).draws = s.draws := rfl

/-! ### flagTimeout -/

@[simp] theorem State.flagTimeout_cfg (s : State) : (s.flagTimeout).cfg = s.cfg := rfl
@[simp] theorem State.flagTimeout_phase (s : State) : (s.flagTimeout).phase = s.phase := rfl
@[simp] theorem State.flagTimeout_mode (s : State) : (s.flagTimeout).mode = s.mode := rfl
@[simp] theorem State.flagTimeout_fault (s : State) : (s.flagTimeout).fault = { s.fault with timeout := true } := rfl
@[simp] theorem State.flagTimeout_win (s : State) : (s.flagTimeout).win = s.win := rfl
@[simp] theorem State.flagTimeout_cur (s : State) : (s.flagTimeout).cur = s.cur := rfl
@[simp] theorem State.flagTimeout_fbP (s : State) : (s.flagTimeout).fbP = s.fbP := rfl
@[simp] theorem State.flagTimeout_fbL (s : State) : (s.flagTimeout).fbL = s.fbL := rfl
@[simp] theorem State.flagTimeout_trace (s : State) : (s.flagTimeout).trace = s.trace := rfl
@[simp] theorem State.flagTimeout_res (s : State) : (s.flagTimeout).res = s.res := rfl
@[simp] theorem State.flagTimeout_latch (s : State) : (s.flagTimeout).latch = s.latch := rfl
@[simp] theorem State.flagTimeout_seq (s : State) : (s.flagTimeout).seq = s.seq := rfl
@[simp] theorem State.flagTimeout_port (s : State) : (s.flagTimeout).port = s.port := rfl
@[simp] theorem State.flagTimeout_answers (s : State) : (s.flagTimeout).answers = s.answers := rfl
@[simp] theorem State.flagTimeout_draws (s : State) : (s.flagTimeout).draws = s.draws := rfl

/-! ### flagSeq -/

@[simp] theorem State.flagSeq_cfg (s : State) : (s.flagSeq).cfg = s.cfg := rfl
@[simp] theorem State.flagSeq_phase (s : State) : (s.flagSeq).phase = s.phase := rfl
@[simp] theorem State.flagSeq_mode (s : State) : (s.flagSeq).mode = s.mode := rfl
@[simp] theorem State.flagSeq_fault (s : State) : (s.flagSeq).fault = { s.fault with seq := true } := rfl
@[simp] theorem State.flagSeq_win (s : State) : (s.flagSeq).win = s.win := rfl
@[simp] theorem State.flagSeq_cur (s : State) : (s.flagSeq).cur = s.cur := rfl
@[simp] theorem State.flagSeq_fbP (s : State) : (s.flagSeq).fbP = s.fbP := rfl
@[simp] theorem State.flagSeq_fbL (s : State) : (s.flagSeq).fbL = s.fbL := rfl
@[simp] theorem State.flagSeq_trace (s : State) : (s.flagSeq).trace = s.trace := rfl
@[simp] theorem State.flagSeq_res (s : State) : (s.flagSeq).res = s.res := rfl
@[simp] theorem State.flagSeq_latch (s : State) : (s.flagSeq).latch = s.latch := rfl
@[simp] theorem State.flagSeq_seq (s : State) : (s.flagSeq).seq = s.seq := rfl
@[simp] theorem State.flagSeq_port (s : State) : (s.flagSeq).port = s.port := rfl
@[simp] theorem State.flagSeq_answers (s : State) : (s.flagSeq).answers = s.answers := rfl
@[simp] theorem State.flagSeq_draws (s : State) : (s.flagSeq).draws = s.draws := rfl

/-! ### emit -/

@[simp] theorem State.emit_cfg (s : State) (es : List Event) : (s.emit es).cfg = s.cfg := rfl
@[simp] theorem State.emit_phase (s : State) (es : List Event) : (s.emit es).phase = s.phase := rfl
@[simp] theorem State.emit_mode (s : State) (es : List Event) : (s.emit es).mode = s.mode := rfl
@[simp] theorem State.emit_fault (s : State) (es : List Event) : (s.emit es).fault = s.fault := rfl
@[simp] theorem State.emit_win (s : State) (es : List Event) : (s.emit es).win = s.win := rfl
@[simp] theorem State.emit_cur (s : State) (es : List Event) : (s.emit es).cur = s.cur := rfl
@[simp] theorem State.emit_fbP (s : State) (es : List Event) : (s.emit es).fbP = s.fbP := rfl
@[simp] theorem State.emit_fbL (s : State) (es : List Event) : (s.emit es).fbL = s.fbL := rfl
@[simp] theorem State.emit_trace (s : State) (es : List Event) : (s.emit es).trace = s.trace ++ es := rfl
@[simp] theorem State.emit_res (s : State) (es : List Event) : (s.emit es).res = s.res := rfl
@[simp] theorem State.emit_latch (s : State) (es : List Event) : (s.emit es).latch = s.latch := rfl
@[simp] theorem State.emit_seq (s : State) (es : List Event) : (s.emit es).seq = s.seq := rfl
@[simp] theorem State.emit_port (s : State) (es : List Event) : (s.emit es).port = s.port := rfl
@[simp] theorem State.emit_answers (s : State) (es : List Event) : (s.emit es).answers = s.answers := rfl
@[simp] theorem State.emit_draws (s : State) (es : List Event) : (s.emit es).draws = s.draws := rfl

/-! ### endOperation -/

@[simp] theorem State.endOperation_cfg (s : State) : (s.endOperation).cfg = s.cfg := rfl
@[simp] theorem State.endOperation_phase (s : State) : (s.endOperation).phase = s.phase := rfl
@[simp] theorem State.endOperation_mode (s : State) : (s.endOperation).mode = s.mode := rfl
@[simp] theorem State.endOperation_fault (s : State) : (s.endOperation).fault = s.fault := rfl
@[simp] theorem State.endOperation_win (s : State) : (s.endOperation).win = s.win := rfl
@[simp] theorem State.endOperation_cur (s : State) : (s.endOperation).cur = s.cur := rfl
@[simp] theorem State.endOperation_fbP (s : State) : (s.endOperation).fbP = s.fbP := rfl
@[simp] theorem State.endOperation_fbL (s : State) : (s.endOperation).fbL = s.fbL := rfl
@[simp] theorem State.endOperation_trace (s : State) : (s.endOperation).trace = s.trace := rfl
@[simp] theorem State.endOperation_res (s : State) : (s.endOperation).res = s.res := rfl
@[simp] theorem State.endOperation_latch (s : State) : (s.endOperation).latch = none := rfl
@[simp] theorem State.endOperation_seq (s : State) : (s.endOperation).seq = .idle := rfl
@[simp] theorem State.endOperation_port (s : State) : (s.endOperation).port = s.port := rfl
@[simp] theorem State.endOperation_answers (s : State) : (s.endOperation).answers = s.answers := rfl
@[simp] theorem State.endOperation_draws (s : State) : (s.endOperation).draws = s.draws := rfl

/-! ### popPort -/

@[simp] theorem State.popPort_cfg (s : State) : (s.popPort).cfg = s.cfg := rfl
@[simp] theorem State.popPort_phase (s : State) : (s.popPort).phase = s.phase := rfl
@[simp] theorem State.popPort_mode (s : State) : (s.popPort).mode = s.mode := rfl
@[simp] theorem State.popPort_fault (s : State) : (s.popPort).fault = s.fault := rfl
@[simp] theorem State.popPort_win (s : State) : (s.popPort).win = s.win := rfl
@[simp] theorem State.popPort_cur (s : State) : (s.popPort).cur = s.cur := rfl
@[simp] theorem State.popPort_fbP (s : State) : (s.popPort).fbP = s.fbP := rfl
@[simp] theorem State.popPort_fbL (s : State) : (s.popPort).fbL = s.fbL := rfl
@[simp] theorem State.popPort_trace (s : State) : (s.popPort).trace = s.trace := rfl
@[simp] theorem State.popPort_res (s : State) : (s.popPort).res = s.res := rfl
@[simp] theorem State.popPort_latch (s : State) : (s.popPort).latch = s.latch := rfl
@[simp] theorem State.popPort_seq (s : State) : (s.popPort).seq = s.seq := rfl
@[simp] theorem State.popPort_port (s : State) : (s.popPort).port = s.port.tail := rfl
@[simp] theorem State.popPort_answers (s : State) : (s.popPort).answers = s.answers := rfl
@[simp] theorem State.popPort_draws (s : State) : (s.popPort).draws = s.draws := rfl

/-! ### setFit -/

@[simp] theorem State.setFit_cfg (s : State) (fit : Nat × List Line) : (s.setFit fit).cfg = s.cfg := rfl
@[simp] theorem State.setFit_phase (s : State) (fit : Nat × List Line) : (s.setFit fit).phase = s.phase := rfl
@[simp] theorem State.setFit_mode (s : State) (fit : Nat × List Line) : (s.setFit fit).mode = s.mode := rfl
@[simp] theorem State.setFit_fault (s : State) (fit : Nat × List Line) : (s.setFit fit).fault = s.fault := rfl
@[simp] theorem State.setFit_win (s : State) (fit : Nat × List Line) : (s.setFit fit).win = s.win := rfl
@[simp] theorem State.setFit_cur (s : State) (fit : Nat × List Line) : (s.setFit fit).cur = s.cur := rfl
@[simp] theorem State.setFit_fbP (s : State) (fit : Nat × List Line) : (s.setFit fit).fbP = s.fbP := rfl
@[simp] theorem State.setFit_fbL (s : State) (fit : Nat × List Line) : (s.setFit fit).fbL = s.fbL := rfl
@[simp] theorem State.setFit_trace (s : State) (fit : Nat × List Line) : (s.setFit fit).trace = s.trace := rfl
@[simp] theorem State.setFit_res (s : State) (fit : Nat × List Line) : (s.setFit fit).res = { s.res with scale := fit.1, lines := fit.2 } := rfl
@[simp] theorem State.setFit_latch (s : State) (fit : Nat × List Line) : (s.setFit fit).latch = s.latch := rfl
@[simp] theorem State.setFit_seq (s : State) (fit : Nat × List Line) : (s.setFit fit).seq = s.seq := rfl
@[simp] theorem State.setFit_port (s : State) (fit : Nat × List Line) : (s.setFit fit).port = s.port := rfl
@[simp] theorem State.setFit_answers (s : State) (fit : Nat × List Line) : (s.setFit fit).answers = s.answers := rfl
@[simp] theorem State.setFit_draws (s : State) (fit : Nat × List Line) : (s.setFit fit).draws = s.draws := rfl

/-! ### placeRequest -/

@[simp] theorem State.placeRequest_cfg (s : State) (frame : List Byte) : (s.placeRequest frame).cfg = s.cfg := rfl
@[simp] theorem State.placeRequest_phase (s : State) (frame : List Byte) : (s.placeRequest frame).phase = s.phase := rfl
@[simp] theorem State.placeRequest_mode (s : State) (frame : List Byte) : (s.placeRequest frame).mode = s.mode := rfl
@[simp] theorem State.placeRequest_fault (s : State) (frame : List Byte) : (s.placeRequest frame).fault = s.fault := rfl
@[simp] theorem State.placeRequest_win (s : State) (frame : List Byte) : (s.placeRequest frame).win = s.win := rfl
@[simp] theorem State.placeRequest_cur (s : State) (frame : List Byte) : (s.placeRequest frame).cur = s.cur := rfl
@[simp] theorem State.placeRequest_fbP (s : State) (frame : List Byte) : (s.placeRequest frame).fbP = s.fbP := rfl
@[simp] theorem State.placeRequest_fbL (s : State) (frame : List Byte) : (s.placeRequest frame).fbL = s.fbL := rfl
@[simp] theorem State.placeRequest_trace (s : State) (frame : List Byte) : (s.placeRequest frame).trace = s.trace := rfl
@[simp] theorem State.placeRequest_res (s : State) (frame : List Byte) : (s.placeRequest frame).res = s.res := rfl
@[simp] theorem State.placeRequest_latch (s : State) (frame : List Byte) : (s.placeRequest frame).latch = s.latch := rfl
@[simp] theorem State.placeRequest_seq (s : State) (frame : List Byte) : (s.placeRequest frame).seq = .idle := rfl
@[simp] theorem State.placeRequest_port (s : State) (frame : List Byte) : (s.placeRequest frame).port = frame :: s.port := rfl
@[simp] theorem State.placeRequest_answers (s : State) (frame : List Byte) : (s.placeRequest frame).answers = s.answers := rfl
@[simp] theorem State.placeRequest_draws (s : State) (frame : List Byte) : (s.placeRequest frame).draws = s.draws := rfl

/-! ### placeSequence -/

@[simp] theorem State.placeSequence_cfg (s : State) (ops : List SeqOp) : (s.placeSequence ops).cfg = s.cfg := rfl
@[simp] theorem State.placeSequence_phase (s : State) (ops : List SeqOp) : (s.placeSequence ops).phase = s.phase := rfl
@[simp] theorem State.placeSequence_mode (s : State) (ops : List SeqOp) : (s.placeSequence ops).mode = s.mode := rfl
@[simp] theorem State.placeSequence_fault (s : State) (ops : List SeqOp) : (s.placeSequence ops).fault = s.fault := rfl
@[simp] theorem State.placeSequence_win (s : State) (ops : List SeqOp) : (s.placeSequence ops).win = s.win := rfl
@[simp] theorem State.placeSequence_cur (s : State) (ops : List SeqOp) : (s.placeSequence ops).cur = s.cur := rfl
@[simp] theorem State.placeSequence_fbP (s : State) (ops : List SeqOp) : (s.placeSequence ops).fbP = s.fbP := rfl
@[simp] theorem State.placeSequence_fbL (s : State) (ops : List SeqOp) : (s.placeSequence ops).fbL = s.fbL := rfl
@[simp] theorem State.placeSequence_trace (s : State) (ops : List SeqOp) : (s.placeSequence ops).trace = s.trace := rfl
@[simp] theorem State.placeSequence_res (s : State) (ops : List SeqOp) : (s.placeSequence ops).res = s.res := rfl
@[simp] theorem State.placeSequence_latch (s : State) (ops : List SeqOp) : (s.placeSequence ops).latch = s.latch := rfl
@[simp] theorem State.placeSequence_seq (s : State) (ops : List SeqOp) : (s.placeSequence ops).seq = .active 0 ops := rfl
@[simp] theorem State.placeSequence_port (s : State) (ops : List SeqOp) : (s.placeSequence ops).port = s.port := rfl
@[simp] theorem State.placeSequence_answers (s : State) (ops : List SeqOp) : (s.placeSequence ops).answers = s.answers := rfl
@[simp] theorem State.placeSequence_draws (s : State) (ops : List SeqOp) : (s.placeSequence ops).draws = s.draws := rfl

/-! ### setMem -/

@[simp] theorem State.setMem_cfg (s : State) (b : Buf) (m : Memory) : (s.setMem b m).cfg = s.cfg := by
  cases b <;> rfl
@[simp] theorem State.setMem_phase (s : State) (b : Buf) (m : Memory) : (s.setMem b m).phase = s.phase := by
  cases b <;> rfl
@[simp] theorem State.setMem_mode (s : State) (b : Buf) (m : Memory) : (s.setMem b m).mode = s.mode := by
  cases b <;> rfl
@[simp] theorem State.setMem_fault (s : State) (b : Buf) (m : Memory) : (s.setMem b m).fault = s.fault := by
  cases b <;> rfl
@[simp] theorem State.setMem_win (s : State) (b : Buf) (m : Memory) : (s.setMem b m).win = s.win := by
  cases b <;> rfl
@[simp] theorem State.setMem_cur (s : State) (b : Buf) (m : Memory) : (s.setMem b m).cur = s.cur := by
  cases b <;> rfl
@[simp] theorem State.setMem_trace (s : State) (b : Buf) (m : Memory) : (s.setMem b m).trace = s.trace := by
  cases b <;> rfl
@[simp] theorem State.setMem_res (s : State) (b : Buf) (m : Memory) : (s.setMem b m).res = s.res := by
  cases b <;> rfl
@[simp] theorem State.setMem_latch (s : State) (b : Buf) (m : Memory) : (s.setMem b m).latch = s.latch := by
  cases b <;> rfl
@[simp] theorem State.setMem_seq (s : State) (b : Buf) (m : Memory) : (s.setMem b m).seq = s.seq := by
  cases b <;> rfl
@[simp] theorem State.setMem_port (s : State) (b : Buf) (m : Memory) : (s.setMem b m).port = s.port := by
  cases b <;> rfl
@[simp] theorem State.setMem_answers (s : State) (b : Buf) (m : Memory) : (s.setMem b m).answers = s.answers := by
  cases b <;> rfl
@[simp] theorem State.setMem_draws (s : State) (b : Buf) (m : Memory) : (s.setMem b m).draws = s.draws := by
  cases b <;> rfl

@[simp] theorem State.setMem_mem (s : State) (b : Buf) (m : Memory) : (s.setMem b m).mem b = m := by
  cases b <;> rfl

theorem State.setMem_mem_other (s : State) (b b' : Buf) (m : Memory) (h : b' ≠ b) : (s.setMem b m).mem b' = s.mem b' := by
  cases b <;> cases b' <;> first | rfl | exact absurd rfl h

@[simp] theorem State.setMem_self (s : State) (b : Buf) : s.setMem b (s.mem b) = s := by
  cases b <;> rfl

@[simp] theorem State.setMem_setMem (s : State) (b : Buf) (m m' : Memory) : (s.setMem b m).setMem b m' = s.setMem b m' := by
  cases b <;> rfl

@[simp] theorem State.setStatus_mem (s : State) (st : Status) (b : Buf) : (s.setStatus st).mem b = s.mem b := by
  cases b <;> rfl

@[simp] theorem State.setFit_mem (s : State) (fit : Nat × List Line) (b : Buf) : (s.setFit fit).mem b = s.mem b := by
  cases b <;> rfl

@[simp] theorem State.setFit_setMem (s : State) (fit : Nat × List Line) (b : Buf) (m : Memory) :
    (s.setFit fit).setMem b m = (s.setMem b m).setFit fit := by
  cases b <;> rfl

/-! ### consumeAnswer -/

@[simp] theorem State.consumeAnswer_cfg (s : State) : s.consumeAnswer.cfg = s.cfg := rfl
@[simp] theorem State.consumeAnswer_phase (s : State) : s.consumeAnswer.phase = s.phase := rfl
@[simp] theorem State.consumeAnswer_mode (s : State) : s.consumeAnswer.mode = s.mode := rfl
@[simp] theorem State.consumeAnswer_fault (s : State) : s.consumeAnswer.fault = s.fault := rfl
@[simp] theorem State.consumeAnswer_win (s : State) : s.consumeAnswer.win = s.win := rfl
@[simp] theorem State.consumeAnswer_cur (s : State) : s.consumeAnswer.cur = s.cur := rfl
@[simp] theorem State.consumeAnswer_fbP (s : State) : s.consumeAnswer.fbP = s.fbP := rfl
@[simp] theorem State.consumeAnswer_fbL (s : State) : s.consumeAnswer.fbL = s.fbL := rfl
@[simp] theorem State.consumeAnswer_trace (s : State) : s.consumeAnswer.trace = s.trace := rfl
@[simp] theorem State.consumeAnswer_res (s : State) : s.consumeAnswer.res = s.res := rfl
@[simp] theorem State.consumeAnswer_latch (s : State) : s.consumeAnswer.latch = s.latch := rfl
@[simp] theorem State.consumeAnswer_seq (s : State) : s.consumeAnswer.seq = s.seq := rfl
@[simp] theorem State.consumeAnswer_port (s : State) : s.consumeAnswer.port = s.port := rfl
@[simp] theorem State.consumeAnswer_answers (s : State) : s.consumeAnswer.answers = s.answers.tail := rfl
@[simp] theorem State.consumeAnswer_draws (s : State) : s.consumeAnswer.draws = s.nextDraws := rfl

/-- The next answer depends on the settled answers and the draw counter alone. -/
theorem State.nextAnswer_congr {s t : State} (ha : t.answers = s.answers) (hd : t.draws = s.draws) :
    t.nextAnswer = s.nextAnswer := by
  simp [State.nextAnswer, ha, hd]

/-! ### pollWith -/

@[simp] theorem State.pollWith_cfg (s : State) (r : Answer) : (s.pollWith r).cfg = s.cfg := rfl
@[simp] theorem State.pollWith_phase (s : State) (r : Answer) : (s.pollWith r).phase = s.phase := rfl
@[simp] theorem State.pollWith_mode (s : State) (r : Answer) : (s.pollWith r).mode = s.mode := rfl
@[simp] theorem State.pollWith_fault (s : State) (r : Answer) : (s.pollWith r).fault = s.fault := rfl
@[simp] theorem State.pollWith_win (s : State) (r : Answer) : (s.pollWith r).win = s.win := rfl
@[simp] theorem State.pollWith_cur (s : State) (r : Answer) : (s.pollWith r).cur = s.cur := rfl
@[simp] theorem State.pollWith_fbP (s : State) (r : Answer) : (s.pollWith r).fbP = s.fbP := rfl
@[simp] theorem State.pollWith_fbL (s : State) (r : Answer) : (s.pollWith r).fbL = s.fbL := rfl
@[simp] theorem State.pollWith_trace (s : State) (r : Answer) : (s.pollWith r).trace = s.trace ++ [.poll r] := rfl
@[simp] theorem State.pollWith_res (s : State) (r : Answer) : (s.pollWith r).res = s.res := rfl
@[simp] theorem State.pollWith_latch (s : State) (r : Answer) : (s.pollWith r).latch = s.latch := rfl
@[simp] theorem State.pollWith_seq (s : State) (r : Answer) : (s.pollWith r).seq = s.seq := rfl
@[simp] theorem State.pollWith_port (s : State) (r : Answer) : (s.pollWith r).port = s.port := rfl
@[simp] theorem State.pollWith_answers (s : State) (r : Answer) : (s.pollWith r).answers = s.answers.tail := rfl
@[simp] theorem State.pollWith_draws (s : State) (r : Answer) : (s.pollWith r).draws = s.nextDraws := rfl

/-! ### hardwareTimeout -/

@[simp] theorem State.hardwareTimeout_cfg (s : State) : (s.hardwareTimeout).cfg = s.cfg := rfl
@[simp] theorem State.hardwareTimeout_phase (s : State) : (s.hardwareTimeout).phase = s.phase := rfl
@[simp] theorem State.hardwareTimeout_mode (s : State) : (s.hardwareTimeout).mode = s.mode := rfl
@[simp] theorem State.hardwareTimeout_fault (s : State) : (s.hardwareTimeout).fault = { s.fault with timeout := true } := rfl
@[simp] theorem State.hardwareTimeout_win (s : State) : (s.hardwareTimeout).win = s.win := rfl
@[simp] theorem State.hardwareTimeout_cur (s : State) : (s.hardwareTimeout).cur = s.cur := rfl
@[simp] theorem State.hardwareTimeout_fbP (s : State) : (s.hardwareTimeout).fbP = s.fbP := rfl
@[simp] theorem State.hardwareTimeout_fbL (s : State) : (s.hardwareTimeout).fbL = s.fbL := rfl
@[simp] theorem State.hardwareTimeout_trace (s : State) : (s.hardwareTimeout).trace = s.trace := rfl
@[simp] theorem State.hardwareTimeout_res (s : State) : (s.hardwareTimeout).res = { s.res with status := .timeout } := rfl
@[simp] theorem State.hardwareTimeout_latch (s : State) : (s.hardwareTimeout).latch = none := rfl
@[simp] theorem State.hardwareTimeout_seq (s : State) : (s.hardwareTimeout).seq = .idle := rfl
@[simp] theorem State.hardwareTimeout_port (s : State) : (s.hardwareTimeout).port = s.port := rfl
@[simp] theorem State.hardwareTimeout_answers (s : State) : (s.hardwareTimeout).answers = s.answers := rfl
@[simp] theorem State.hardwareTimeout_draws (s : State) : (s.hardwareTimeout).draws = s.draws := rfl

/-! ### phaseRefused -/

@[simp] theorem State.phaseRefused_cfg (s : State) : (s.phaseRefused).cfg = s.cfg := rfl
@[simp] theorem State.phaseRefused_phase (s : State) : (s.phaseRefused).phase = s.phase := rfl
@[simp] theorem State.phaseRefused_mode (s : State) : (s.phaseRefused).mode = s.mode := rfl
@[simp] theorem State.phaseRefused_fault (s : State) : (s.phaseRefused).fault = { s.fault with seq := true } := rfl
@[simp] theorem State.phaseRefused_win (s : State) : (s.phaseRefused).win = s.win := rfl
@[simp] theorem State.phaseRefused_cur (s : State) : (s.phaseRefused).cur = s.cur := rfl
@[simp] theorem State.phaseRefused_fbP (s : State) : (s.phaseRefused).fbP = s.fbP := rfl
@[simp] theorem State.phaseRefused_fbL (s : State) : (s.phaseRefused).fbL = s.fbL := rfl
@[simp] theorem State.phaseRefused_trace (s : State) : (s.phaseRefused).trace = s.trace := rfl
@[simp] theorem State.phaseRefused_res (s : State) : (s.phaseRefused).res = { s.res with status := .phaseRefused } := rfl
@[simp] theorem State.phaseRefused_latch (s : State) : (s.phaseRefused).latch = s.latch := rfl
@[simp] theorem State.phaseRefused_seq (s : State) : (s.phaseRefused).seq = s.seq := rfl
@[simp] theorem State.phaseRefused_port (s : State) : (s.phaseRefused).port = s.port := rfl
@[simp] theorem State.phaseRefused_answers (s : State) : (s.phaseRefused).answers = s.answers := rfl
@[simp] theorem State.phaseRefused_draws (s : State) : (s.phaseRefused).draws = s.draws := rfl

/-! ### badRequest -/

@[simp] theorem State.badRequest_cfg (s : State) : (s.badRequest).cfg = s.cfg := rfl
@[simp] theorem State.badRequest_phase (s : State) : (s.badRequest).phase = s.phase := rfl
@[simp] theorem State.badRequest_mode (s : State) : (s.badRequest).mode = s.mode := rfl
@[simp] theorem State.badRequest_fault (s : State) : (s.badRequest).fault = s.fault := rfl
@[simp] theorem State.badRequest_win (s : State) : (s.badRequest).win = s.win := rfl
@[simp] theorem State.badRequest_cur (s : State) : (s.badRequest).cur = s.cur := rfl
@[simp] theorem State.badRequest_fbP (s : State) : (s.badRequest).fbP = s.fbP := rfl
@[simp] theorem State.badRequest_fbL (s : State) : (s.badRequest).fbL = s.fbL := rfl
@[simp] theorem State.badRequest_trace (s : State) : (s.badRequest).trace = s.trace := rfl
@[simp] theorem State.badRequest_res (s : State) : (s.badRequest).res = { s.res with status := .badRequest } := rfl
@[simp] theorem State.badRequest_latch (s : State) : (s.badRequest).latch = s.latch := rfl
@[simp] theorem State.badRequest_seq (s : State) : (s.badRequest).seq = s.seq := rfl
@[simp] theorem State.badRequest_port (s : State) : (s.badRequest).port = s.port := rfl
@[simp] theorem State.badRequest_answers (s : State) : (s.badRequest).answers = s.answers := rfl
@[simp] theorem State.badRequest_draws (s : State) : (s.badRequest).draws = s.draws := rfl

/-! ### unsupportedMode -/

@[simp] theorem State.unsupportedMode_cfg (s : State) : (s.unsupportedMode).cfg = s.cfg := rfl
@[simp] theorem State.unsupportedMode_phase (s : State) : (s.unsupportedMode).phase = s.phase := rfl
@[simp] theorem State.unsupportedMode_mode (s : State) : (s.unsupportedMode).mode = s.mode := rfl
@[simp] theorem State.unsupportedMode_fault (s : State) : (s.unsupportedMode).fault = s.fault := rfl
@[simp] theorem State.unsupportedMode_win (s : State) : (s.unsupportedMode).win = s.win := rfl
@[simp] theorem State.unsupportedMode_cur (s : State) : (s.unsupportedMode).cur = s.cur := rfl
@[simp] theorem State.unsupportedMode_fbP (s : State) : (s.unsupportedMode).fbP = s.fbP := rfl
@[simp] theorem State.unsupportedMode_fbL (s : State) : (s.unsupportedMode).fbL = s.fbL := rfl
@[simp] theorem State.unsupportedMode_trace (s : State) : (s.unsupportedMode).trace = s.trace := rfl
@[simp] theorem State.unsupportedMode_res (s : State) : (s.unsupportedMode).res = { s.res with status := .unsupportedMode } := rfl
@[simp] theorem State.unsupportedMode_latch (s : State) : (s.unsupportedMode).latch = s.latch := rfl
@[simp] theorem State.unsupportedMode_seq (s : State) : (s.unsupportedMode).seq = s.seq := rfl
@[simp] theorem State.unsupportedMode_port (s : State) : (s.unsupportedMode).port = s.port := rfl
@[simp] theorem State.unsupportedMode_answers (s : State) : (s.unsupportedMode).answers = s.answers := rfl
@[simp] theorem State.unsupportedMode_draws (s : State) : (s.unsupportedMode).draws = s.draws := rfl

end Sys2Proof.Machine
end

