-- ==== Sys2Proof/Laws/Draw.lean ====
section
/-!
SUPPORT. Drawing: the geometry of the two packings, what one pixel write does, and that every drawing operation keeps what every
pixel write keeps.
-/

namespace Sys2Proof

/-! ### Geometry of a legal configuration -/

theorem Cfg.legal_wPx {c : Cfg} (h : c.legal = true) : c.wPx = 8 * c.wb ∧ 0 < c.wb ∧ 0 < c.hPx := by
  simp only [Cfg.legal, decide_eq_true_eq] at h
  unfold Cfg.wb
  omega

end Sys2Proof

namespace Sys2Proof.Machine

theorem inside_iff (c : Cfg) (b : Buf) (x y : Int) :
    inside c b x y = true ↔ 0 ≤ x ∧ 0 ≤ y ∧ x < c.width b ∧ y < c.height b := by
  simp [inside, and_assoc]

/-- The byte of a pixel inside the buffer lies inside the buffer (R61, R62). -/
theorem pixelByte_lt {c : Cfg} (hc : c.legal = true) {b : Buf} {x y : Nat} (hx : x < c.width b) (hy : y < c.height b) :
    pixelByte c b x y < c.fbLen := by
  obtain ⟨hw, hb, hh⟩ := Cfg.legal_wPx hc
  cases b with
  | portrait =>
    simp only [Cfg.width, Cfg.height] at hx hy
    have h1 : x / 8 < c.wb := by omega
    calc y * c.wb + x / 8 < y * c.wb + c.wb := by omega
      _ = (y + 1) * c.wb := by ring
      _ ≤ c.hPx * c.wb := Nat.mul_le_mul_right _ hy
      _ = c.fbLen := by rw [Cfg.fbLen, Nat.mul_comm]
  | landscape =>
    simp only [Cfg.width, Cfg.height] at hx hy
    have h1 : y / 8 < c.wb := by omega
    calc y / 8 * c.hPx + x < y / 8 * c.hPx + c.hPx := by omega
      _ = (y / 8 + 1) * c.hPx := by ring
      _ ≤ c.wb * c.hPx := Nat.mul_le_mul_right _ h1

theorem pixelBit_lt (b : Buf) (x y : Nat) : pixelBit b x y < 8 := by
  cases b <;> simp only [pixelBit] <;> omega

/-- Two pixels of one buffer with the same byte and bit are the same pixel. -/
theorem pixel_inj {c : Cfg} (hc : c.legal = true) {b : Buf} {x y x' y' : Nat} (hx : x < c.width b) (hx' : x' < c.width b)
    (hk : pixelByte c b x y = pixelByte c b x' y') (hi : pixelBit b x y = pixelBit b x' y') : x = x' ∧ y = y' := by
  obtain ⟨hw, hb, hh⟩ := Cfg.legal_wPx hc
  have key : ∀ {n q r q' r' : Nat}, r < n → r' < n → q * n + r = q' * n + r' → q = q' ∧ r = r' := by
    intro n q r q' r' h h' e
    have e1 : (q * n + r) / n = (q' * n + r') / n := by rw [e]
    have e2 : (q * n + r) % n = (q' * n + r') % n := by rw [e]
    have hn : 0 < n := by omega
    rw [Nat.mul_comm q, Nat.mul_comm q', Nat.mul_add_div hn, Nat.mul_add_div hn, Nat.div_eq_of_lt h, Nat.div_eq_of_lt h'] at e1
    rw [Nat.mul_comm q, Nat.mul_comm q', Nat.mul_add_mod, Nat.mul_add_mod, Nat.mod_eq_of_lt h, Nat.mod_eq_of_lt h'] at e2
    omega
  cases b with
  | portrait =>
    simp only [Cfg.width, pixelByte, pixelBit] at *
    obtain ⟨h1, h2⟩ := key (n := c.wb) (by omega) (by omega) hk
    omega
  | landscape =>
    simp only [Cfg.width, pixelByte, pixelBit] at *
    obtain ⟨h1, h2⟩ := key hx hx' hk
    omega

/-! ### Bits of a byte -/

theorem getLsbD_replaceBit (v : Byte) (i j : Nat) (color : Bool) (hi : i < 8) :
    (replaceBit v i color).getLsbD j = if j = i then color else v.getLsbD j := by
  have hp : ∀ j, (BitVec.ofNat 8 (2 ^ i)).getLsbD j = decide (j = i) := by
    intro j
    rw [BitVec.getLsbD_ofNat, Nat.testBit_two_pow]
    by_cases h : j = i
    · subst h; simp [hi]
    · simp [h, Ne.symm h]
  unfold replaceBit
  generalize BitVec.ofNat 8 (2 ^ i) = mask at hp
  by_cases hj : j = i
  · subst hj
    cases color <;> simp [BitVec.getLsbD_or, BitVec.getLsbD_and, BitVec.getLsbD_not, hp, -BitVec.getLsbD_eq_getElem]
  · cases color
    · by_cases h8 : j < 8
      · simp [BitVec.getLsbD_and, BitVec.getLsbD_not, hp, hj, h8, -BitVec.getLsbD_eq_getElem]
      · simp [hj, BitVec.getLsbD_of_ge _ _ (Nat.le_of_not_lt h8)]
    · simp [BitVec.getLsbD_or, hp, hj, -BitVec.getLsbD_eq_getElem]

/-! ### One pixel write -/

/-- The pixel of a memory (R63), for a pixel inside. -/
def pixelOf (c : Cfg) (b : Buf) (m : Memory) (x y : Nat) : Bool :=
  (memByte b (pixelByte c b x y) m).getLsbD (pixelBit b x y)

theorem getPixel_inside (s : State) (b : Buf) (x y : Int) (h : inside s.cfg b x y = true) :
    s.getPixel b x y = some (pixelOf s.cfg b (s.mem b) x.toNat y.toNat) := by
  simp [State.getPixel, h, pixelOf, State.readByte]

theorem putPixel_outside {c : Cfg} {b : Buf} {x y : Int} {color : Bool} {v : Canvas} (h : inside c b x y = false) :
    putPixel c b x y color v = { v with allIn := false } := by
  simp [putPixel, h]

/-- What a pixel write inside the buffer does, byte by byte (R170). -/
theorem memByte_putPixel {c : Cfg} {b : Buf} {x y : Int} {color : Bool} {v : Canvas} (h : inside c b x y = true) (k : Nat) :
    memByte b k (putPixel c b x y color v).mem =
      if k = pixelByte c b x.toNat y.toNat then replaceBit (memByte b k v.mem) (pixelBit b x.toNat y.toNat) color
      else memByte b k v.mem := by
  simp only [putPixel, h, if_true, memByte_write]
  split
  · next hk => rw [hk]
  · rfl

/-- What a pixel write inside the buffer does, pixel by pixel (R170). -/
theorem pixelOf_putPixel {c : Cfg} (hc : c.legal = true) {b : Buf} {x y : Int} {color : Bool} {v : Canvas}
    (h : inside c b x y = true) {x' y' : Nat} (hx' : x' < c.width b) :
    pixelOf c b (putPixel c b x y color v).mem x' y' =
      if x' = x.toNat ∧ y' = y.toNat then color else pixelOf c b v.mem x' y' := by
  have hin := (inside_iff c b x y).1 h
  have hx : x.toNat < c.width b := by omega
  unfold pixelOf
  rw [memByte_putPixel h]
  by_cases hk : pixelByte c b x' y' = pixelByte c b x.toNat y.toNat
  · rw [if_pos hk, getLsbD_replaceBit _ _ _ _ (pixelBit_lt _ _ _)]
    by_cases hi : pixelBit b x' y' = pixelBit b x.toNat y.toNat
    · rw [if_pos hi, if_pos (pixel_inj hc hx' hx hk hi)]
    · rw [if_neg hi, if_neg]
      rintro ⟨rfl, rfl⟩
      exact hi rfl
  · rw [if_neg hk, if_neg]
    rintro ⟨rfl, rfl⟩
    exact hk rfl

/-- A pixel write keeps the canonical form and the bound. -/
theorem putPixel_mem {c : Cfg} (hc : c.legal = true) {b : Buf} {x y : Int} {color : Bool} {v : Canvas}
    (h : Memory.wf v.mem ∧ Memory.within c.fbLen v.mem) :
    Memory.wf (putPixel c b x y color v).mem ∧ Memory.within c.fbLen (putPixel c b x y color v).mem := by
  cases hin : inside c b x y with
  | false => simpa [putPixel_outside hin] using h
  | true =>
    have hb := (inside_iff c b x y).1 hin
    simp only [putPixel, hin, if_true]
    exact ⟨Memory.write_wf h.1, Memory.write_within (pixelByte_lt hc (by omega) (by omega)) h.2⟩

/-! ### Loops keep what their body keeps -/

theorem repeatUp_keeps {α : Type} (P : α → Prop) (n : Nat) (f : Nat → α → α) (x : α)
    (hf : ∀ i v, i < n → P v → P (f i v)) (hx : P x) : P (repeatUp n f x) := by
  induction n with
  | zero => exact hx
  | succ n ih => exact hf n _ (Nat.lt_succ_self n) (ih fun i v hi => hf i v (Nat.lt_succ_of_lt hi))

theorem overClip_keeps {α : Type} (P : α → Prop) (c : Cfg) (b : Buf) (x y w h : Int) (paint : Int → Int → α → α) (v : α)
    (hp : ∀ px py v, P v → P (paint px py v)) (hv : P v) : P (overClip c b x y w h paint v) :=
  repeatUp_keeps P _ _ _ (fun _ _ _ hw => repeatUp_keeps P _ _ _ (fun _ _ _ hu => hp _ _ _ hu) hw) hv

/-- A property of the memory that every pixel write keeps is kept by `rect`. -/
theorem rect_keeps (P : Memory → Prop) (c : Cfg) (b : Buf) (x y w h : Int) (color : Bool) (v : Canvas)
    (hp : ∀ px py color v, P v.mem → P (putPixel c b px py color v).mem) (hv : P v.mem) :
    P (rect c b x y w h color v).mem :=
  overClip_keeps (fun v : Canvas => P v.mem) c b x y w h _ v (fun px py v hv => hp px py color v hv) hv

/-- … by a blit's pixels. -/
theorem blitPixels_keeps (P : Memory → Prop) (c : Cfg) (b : Buf) (src : PixelSource) (x y w h : Int) (limit : Nat)
    (v : Canvas) (hp : ∀ px py color v, P v.mem → P (putPixel c b px py color v).mem) (hv : P v.mem) :
    P (blitPixels c b src x y w h limit v).mem := by
  refine overClip_keeps (fun v : Canvas => P v.mem) c b x y w h _ v (fun px py v hv => ?_) hv
  dsimp only
  split
  · exact hp _ _ _ _ hv
  · exact hv

/-- … by a line of text. -/
theorem paintLine_keeps (P : Memory → Prop) (c : Cfg) (b : Buf) (line : Line) (x y s : Int) (color : Bool) (v : Canvas)
    (hp : ∀ px py color v, P v.mem → P (putPixel c b px py color v).mem) (hv : P v.mem) :
    P (paintLine c b line x y s color v).mem := by
  refine repeatUp_keeps (fun v : Canvas => P v.mem) _ _ _ (fun sy v _ hv => ?_) hv
  refine repeatUp_keeps (fun v : Canvas => P v.mem) _ _ _ (fun sx v _ hv => ?_) hv
  split
  · exact rect_keeps P c b _ _ _ _ color v hp hv
  · exact hv

/-- … by lines of text. -/
theorem paintLines_keeps (P : Memory → Prop) (c : Cfg) (b : Buf) (x y s : Int) (color : Bool) (li : Nat) (ls : List Line)
    (v : Canvas) (hp : ∀ px py color v, P v.mem → P (putPixel c b px py color v).mem) (hv : P v.mem) :
    P (paintLines c b x y s color li ls v).mem := by
  induction ls generalizing li v with
  | nil => exact hv
  | cons line ls ih => exact ih _ _ (paintLine_keeps P c b line _ _ s color v hp hv)

/-- … by `stb`. -/
theorem stb_keeps (P : Memory → Prop) (c : Cfg) (b : Buf) (text : Line) (x y scale : Int) (color : Bool) (v : Canvas)
    (hp : ∀ px py color v, P v.mem → P (putPixel c b px py color v).mem) (hv : P v.mem) :
    P (stb c b text x y scale color v).mem :=
  paintLines_keeps P c b x y _ color 0 _ v hp hv

/-- … by the fitted lines. -/
theorem paintFitted_keeps (P : Memory → Prop) (c : Cfg) (b : Buf) (x y : Int) (scale : Nat) (color center : Bool) (li : Nat)
    (ls : List Line) (v : Canvas) (hp : ∀ px py color v, P v.mem → P (putPixel c b px py color v).mem) (hv : P v.mem) :
    P (paintFitted c b x y scale color center li ls v).mem := by
  induction ls generalizing li v with
  | nil => exact hv
  | cons line ls ih => exact ih _ _ (stb_keeps P c b line _ _ scale color v hp hv)

end Sys2Proof.Machine
end

