-- ==== Sys2Proof/Laws/Paint.lean ====
section
/-!
SUPPORT. What painting does, said once: `Painted P color v v'` gives every pixel, every byte and the answer of a canvas after painting
the pixels of `P`. One lemma for each painter: a pixel, a rectangle, a blit's pixels, a line, lines, a text, fitted lines.
-/

namespace Sys2Proof.Machine

/-- `v'` is `v` with the pixels of `P` painted: those inside in their colour, all others kept, bytes without a painted pixel kept, and the
answer says whether all of them lay inside (R65, R170). -/
structure Painted (c : Cfg) (b : Buf) (P : Int → Int → Prop) (color : Int → Int → Bool) (v v' : Canvas) : Prop where
  paints : ∀ px py, inside c b px py = true → P px py → pixelOf c b v'.mem px.toNat py.toNat = color px py
  keeps : ∀ px py, inside c b px py = true → ¬ P px py →
    pixelOf c b v'.mem px.toNat py.toNat = pixelOf c b v.mem px.toNat py.toNat
  bytes : ∀ k, (∀ px py, inside c b px py = true → P px py → pixelByte c b px.toNat py.toNat ≠ k) →
    memByte b k v'.mem = memByte b k v.mem
  allIn : v'.allIn = true ↔ v.allIn = true ∧ ∀ px py, P px py → inside c b px py = true

theorem Painted.none (c : Cfg) (b : Buf) (color : Int → Int → Bool) (v : Canvas) :
    Painted c b (fun _ _ => False) color v v :=
  ⟨fun _ _ _ h => h.elim, fun _ _ _ _ => rfl, fun _ _ => rfl, by simp⟩

/-- The same pixels, said otherwise. -/
theorem Painted.congr {c : Cfg} {b : Buf} {P Q : Int → Int → Prop} {color : Int → Int → Bool} {v v' : Canvas}
    (h : Painted c b P color v v') (e : ∀ px py, P px py ↔ Q px py) : Painted c b Q color v v' := by
  have : P = Q := funext fun px => funext fun py => propext (e px py)
  exact this ▸ h

/-- One painting after another. -/
theorem Painted.trans {c : Cfg} {b : Buf} {P Q : Int → Int → Prop} {color : Int → Int → Bool} {v v' v'' : Canvas}
    (h : Painted c b P color v v') (g : Painted c b Q color v' v'') :
    Painted c b (fun px py => P px py ∨ Q px py) color v v'' where
  paints px py hi hp := by
    by_cases hq : Q px py
    · exact g.paints px py hi hq
    · rw [g.keeps px py hi hq]
      exact h.paints px py hi (hp.resolve_right hq)
  keeps px py hi hn := by
    rw [g.keeps px py hi fun hq => hn (.inr hq), h.keeps px py hi fun hp => hn (.inl hp)]
  bytes k hk := by
    rw [g.bytes k fun px py hi hq => hk px py hi (.inr hq), h.bytes k fun px py hi hp => hk px py hi (.inl hp)]
  allIn := by
    rw [g.allIn, h.allIn]
    constructor
    · rintro ⟨⟨h1, h2⟩, h3⟩
      exact ⟨h1, fun px py hp => hp.elim (h2 px py) (h3 px py)⟩
    · rintro ⟨h1, h2⟩
      exact ⟨⟨h1, fun px py hp => h2 px py (.inl hp)⟩, fun px py hq => h2 px py (.inr hq)⟩

/-- A loop paints what its rounds paint. -/
theorem Painted.loop {c : Cfg} {b : Buf} {P : Nat → Int → Int → Prop} {color : Int → Int → Bool} (n : Nat)
    (f : Nat → Canvas → Canvas) (v : Canvas) (h : ∀ i v, i < n → Painted c b (P i) color v (f i v)) :
    Painted c b (fun px py => ∃ i, i < n ∧ P i px py) color v (repeatUp n f v) := by
  induction n with
  | zero => exact (Painted.none c b color v).congr (by simp)
  | succ n ih =>
    refine ((ih fun i v hi => h i v (Nat.lt_succ_of_lt hi)).trans (h n _ (Nat.lt_succ_self n))).congr fun px py => ?_
    constructor
    · rintro (⟨i, hi, hp⟩ | hp)
      · exact ⟨i, Nat.lt_succ_of_lt hi, hp⟩
      · exact ⟨n, Nat.lt_succ_self n, hp⟩
    · rintro ⟨i, hi, hp⟩
      rcases Nat.lt_succ_iff_lt_or_eq.1 hi with hi | rfl
      · exact .inl ⟨i, hi, hp⟩
      · exact .inr hp

/-- A painting that is done only under a condition. -/
theorem Painted.guard {c : Cfg} {b : Buf} {P : Int → Int → Prop} {color : Int → Int → Bool} {v v' : Canvas} (g : Prop)
    [Decidable g] (h : g → Painted c b P color v v') :
    Painted c b (fun px py => g ∧ P px py) color v (if g then v' else v) := by
  by_cases hg : g
  · rw [if_pos hg]
    exact (h hg).congr fun _ _ => ⟨fun hp => ⟨hg, hp⟩, And.right⟩
  · rw [if_neg hg]
    exact (Painted.none c b color v).congr fun _ _ => ⟨False.elim, fun hp => hg hp.1⟩

/-! ### The painters -/

/-- `putPixel` paints one pixel (R170). -/
theorem putPixel_painted {c : Cfg} (hc : c.legal = true) (b : Buf) (x y : Int) (color : Int → Int → Bool) (v : Canvas) :
    Painted c b (fun px py => px = x ∧ py = y) color v (putPixel c b x y (color x y) v) := by
  cases h : inside c b x y with
  | false =>
    rw [putPixel_outside h]
    refine ⟨fun px py hi hp => ?_, fun _ _ _ _ => rfl, fun _ _ => rfl, ?_⟩
    · rw [hp.1, hp.2, h] at hi
      cases hi
    · simp [h]
  | true =>
    have hxy := (inside_iff c b x y).1 h
    refine ⟨fun px py hi hp => ?_, fun px py hi hp => ?_, fun k hk => ?_, ?_⟩
    · rw [hp.1, hp.2, pixelOf_putPixel hc h (by omega), if_pos ⟨rfl, rfl⟩]
    · have hpx := (inside_iff c b px py).1 hi
      rw [pixelOf_putPixel hc h (by omega), if_neg]
      omega
    · rw [memByte_putPixel h, if_neg (Ne.symm (hk x y h ⟨rfl, rfl⟩))]
    · simp only [putPixel, h, if_true]
      exact ⟨fun hv => ⟨hv, by rintro px py ⟨rfl, rfl⟩; exact h⟩, And.left⟩

/-- The pixels of a rectangle clipped to the buffer are those of the rectangle that lie inside (R171). -/
theorem clip_iff (c : Cfg) (b : Buf) (x y w h px py : Int) :
    (∃ j, j < clipLen y h (c.height b) ∧ ∃ i, i < clipLen x w (c.width b) ∧
        px = max x 0 + (i : Int) ∧ py = max y 0 + (j : Int))
      ↔ inRect x y w h px py ∧ inside c b px py = true := by
  rw [inside_iff]
  unfold inRect clipLen
  constructor
  · rintro ⟨j, hj, i, hi, rfl, rfl⟩
    omega
  · intro hp
    exact ⟨(py - max y 0).toNat, by omega, (px - max x 0).toNat, by omega, by omega, by omega⟩

/-- Painting over the clipped rectangle. -/
theorem overClip_painted {c : Cfg} {b : Buf} (x y w h : Int) (color : Int → Int → Bool) (Q : Int → Int → Prop)
    (paint : Int → Int → Canvas → Canvas) (v : Canvas)
    (hp : ∀ px py v, Painted c b (fun qx qy => Q px py ∧ qx = px ∧ qy = py) color v (paint px py v)) :
    Painted c b (fun px py => Q px py ∧ inRect x y w h px py ∧ inside c b px py = true) color v
      (overClip c b x y w h paint v) := by
  refine (Painted.loop _ _ v fun j v _ => Painted.loop _ _ v fun i v _ => hp _ _ v).congr fun px py => ?_
  rw [← clip_iff]
  constructor
  · rintro ⟨j, hj, i, hi, hq, rfl, rfl⟩
    exact ⟨hq, j, hj, i, hi, rfl, rfl⟩
  · rintro ⟨hq, j, hj, i, hi, rfl, rfl⟩
    exact ⟨j, hj, i, hi, hq, rfl, rfl⟩

/-- The fitting test says what it should: every pixel of the rectangle lies inside (R171). -/
theorem rectInside_iff (c : Cfg) (b : Buf) (x y w h : Int) :
    rectInside c b x y w h = true ↔ ∀ px py, inRect x y w h px py → inside c b px py = true := by
  simp only [rectInside, Bool.or_eq_true, Bool.and_eq_true, decide_eq_true_eq, inside_iff, inRect]
  constructor
  · intro hr px py hp
    omega
  · intro hr
    by_cases hw : w ≤ 0
    · exact .inl (.inl hw)
    by_cases hh : h ≤ 0
    · exact .inl (.inr hh)
    have h1 := hr x y (by omega)
    have h2 := hr (x + w - 1) (y + h - 1) (by omega)
    exact .inr (by omega)

theorem rectFits_iff (c : Cfg) (b : Buf) (x y w h : Int) : rectFits c b x y w h ↔ rectInside c b x y w h = true := by
  simp [rectFits, rectInside, or_assoc, and_assoc]

/-- `rect` paints the rectangle (R171). -/
theorem rect_painted {c : Cfg} (hc : c.legal = true) (b : Buf) (x y w h : Int) (color : Bool) (v : Canvas) :
    Painted c b (inRect x y w h) (fun _ _ => color) v (rect c b x y w h color v) := by
  have hp := overClip_painted (c := c) (b := b) x y w h (fun _ _ => color) (fun _ _ => True)
    (fun px py => putPixel c b px py color) v fun px py v =>
      (putPixel_painted hc b px py (fun _ _ => color) v).congr fun _ _ => ⟨fun e => ⟨trivial, e⟩, And.right⟩
  refine ⟨fun px py hi hr => hp.paints px py hi ⟨trivial, hr, hi⟩,
    fun px py hi hr => hp.keeps px py hi fun hn => hr hn.2.1,
    fun k hk => hp.bytes k fun px py hi hr => hk px py hi hr.2.1, ?_⟩
  simp only [rect, Bool.and_eq_true, hp.allIn, rectInside_iff]
  constructor
  · rintro ⟨⟨h1, _⟩, h2⟩
    exact ⟨h1, h2⟩
  · rintro ⟨h1, h2⟩
    exact ⟨⟨h1, fun px py hr => hr.2.2⟩, h2⟩

/-- A blit's pixels before point `limit`, those inside (R173). -/
theorem blitPixels_painted {c : Cfg} (hc : c.legal = true) (b : Buf) (src : PixelSource) (x y w h : Int) (limit : Nat)
    (v : Canvas) :
    Painted c b
      (fun px py => (py - y).toNat * w.toNat + (px - x).toNat < limit ∧ inRect x y w h px py ∧ inside c b px py = true)
      (fun px py => decide (sourceAt src ((py - y).toNat * w.toNat + (px - x).toNat) = 1#8)) v
      (blitPixels c b src x y w h limit v) :=
  overClip_painted x y w h _ _ _ v fun px py v =>
    Painted.guard _ fun _ => putPixel_painted hc b px py
      (fun px py => decide (sourceAt src ((py - y).toNat * w.toNat + (px - x).toNat) = 1#8)) v

/-- The pixels a line of text covers, painted at (x, y) in scale `s`. -/
def lineCovers (c : Cfg) (line : Line) (x y s px py : Int) : Prop :=
  ∃ sy, sy < 8 ∧ ∃ sx, sx < 8 * line.length ∧ c.ink (line.getD (sx / 8) 0#8) (sx % 8) sy = true ∧
    inRect (x + (sx : Int) * s) (y + (sy : Int) * s) s s px py

/-- One line of text (R190, R192). -/
theorem paintLine_painted {c : Cfg} (hc : c.legal = true) (b : Buf) (line : Line) (x y s : Int) (color : Bool) (v : Canvas) :
    Painted c b (lineCovers c line x y s) (fun _ _ => color) v (paintLine c b line x y s color v) :=
  Painted.loop _ _ v fun _ v _ => Painted.loop _ _ v fun _ v _ => Painted.guard _ fun _ => rect_painted hc b _ _ _ _ color v

/-- Lines below each other, from line number `li` on (R192). -/
theorem paintLines_painted {c : Cfg} (hc : c.legal = true) (b : Buf) (x y s : Int) (color : Bool) (li : Nat) (ls : List Line)
    (v : Canvas) :
    Painted c b (fun px py => ∃ i line, ls[i]? = some line ∧ lineCovers c line x (y + ((li + i : Nat) : Int) * 8 * s) s px py)
      (fun _ _ => color) v (paintLines c b x y s color li ls v) := by
  induction ls generalizing li v with
  | nil => exact (Painted.none c b _ v).congr (by simp)
  | cons line ls ih =>
    refine ((paintLine_painted hc b line x _ s color v).trans (ih (li + 1) _)).congr fun px py => ?_
    constructor
    · rintro (hp | ⟨i, l, hl, hp⟩)
      · exact ⟨0, line, rfl, hp⟩
      · exact ⟨i + 1, l, hl, by rwa [show li + (i + 1) = li + 1 + i by omega]⟩
    · rintro ⟨i, l, hl, hp⟩
      cases i with
      | zero =>
        cases hl
        exact .inl hp
      | succ i => exact .inr ⟨i, l, hl, by rwa [show li + 1 + i = li + (i + 1) by omega]⟩

/-- `stb` paints the blocks of the text's raster (R192, R193). -/
theorem stb_painted {c : Cfg} (hc : c.legal = true) (b : Buf) (text : Line) (x y scale : Int) (color : Bool) (v : Canvas) :
    Painted c b (textCovers c text x y (max scale 1)) (fun _ _ => color) v (stb c b text x y scale color v) := by
  refine (paintLines_painted hc b x y (max scale 1) color 0 (splitLines text) v).congr fun px py => ?_
  have e : ∀ (li sy : Nat), y + ((0 + li : Nat) : Int) * 8 * max scale 1 + (sy : Int) * max scale 1
      = y + ((li : Int) * 8 + sy) * max scale 1 := by
    intro li sy
    push_cast
    ring
  constructor
  · rintro ⟨li, line, hl, sy, hy, sx, hx, hk, hr⟩
    exact ⟨li, sx, sy, ⟨line, hl, hx, hy, hk⟩, by rwa [e] at hr⟩
  · rintro ⟨li, sx, sy, ⟨line, hl, hx, hy, hk⟩, hr⟩
    exact ⟨li, line, hl, sy, hy, sx, hx, hk, by rwa [e]⟩

/-- The fitted lines from line number `li` on, for a scale of at least 1 (R194). -/
theorem paintFitted_painted {c : Cfg} (hc : c.legal = true) (b : Buf) (x y : Int) (scale : Nat) (hs : 1 ≤ scale)
    (color center : Bool) (li : Nat) (ls : List Line) (v : Canvas) :
    Painted c b
      (fun px py => ∃ i line, ls[i]? = some line ∧
        textCovers c line (lineLeft c x center scale line) (y + ((li + i : Nat) : Int) * 8 * scale) scale px py)
      (fun _ _ => color) v (paintFitted c b x y scale color center li ls v) := by
  induction ls generalizing li v with
  | nil => exact (Painted.none c b _ v).congr (by simp)
  | cons line ls ih =>
    have hm : max (scale : Int) 1 = scale := by omega
    have h1 := stb_painted hc b line (lineLeft c x center scale line) (y + (li : Int) * 8 * scale) scale color v
    rw [hm] at h1
    refine (h1.trans (ih (li + 1) _)).congr fun px py => ?_
    constructor
    · rintro (hp | ⟨i, l, hl, hp⟩)
      · exact ⟨0, line, rfl, hp⟩
      · exact ⟨i + 1, l, hl, by rwa [show li + (i + 1) = li + 1 + i by omega]⟩
    · rintro ⟨i, l, hl, hp⟩
      cases i with
      | zero =>
        cases hl
        exact .inl hp
      | succ i => exact .inr ⟨i, l, hl, by rwa [show li + 1 + i = li + (i + 1) by omega]⟩

/-- A text fits exactly when every pixel it covers lies inside. -/
theorem textFits_iff (c : Cfg) (b : Buf) (text : Line) (x y s : Int) :
    textFits c b text x y s ↔ ∀ px py, textCovers c text x y s px py → inside c b px py = true := by
  constructor
  · rintro h px py ⟨li, sx, sy, hk, hr⟩
    exact (rectInside_iff c b _ _ _ _).1 ((rectFits_iff c b _ _ _ _).1 (h li sx sy hk)) px py hr
  · intro h li sx sy hk
    exact (rectFits_iff c b _ _ _ _).2 ((rectInside_iff c b _ _ _ _).2 fun px py hr => h px py ⟨li, sx, sy, hk, hr⟩)

/-! ### Reading the pixels of a state whose buffer was drawn -/

theorem getPixel_setMem (s : State) (b : Buf) (m : Memory) (x y : Int) (h : inside s.cfg b x y = true) :
    (s.setMem b m).getPixel b x y = some (pixelOf s.cfg b m x.toNat y.toNat) := by
  rw [getPixel_inside _ _ _ _ (by simpa using h)]
  simp

/-- The status of a drawing operation that ran to its end (R65, R224). -/
theorem drawStatus_cases {inAll : Bool} {P : Prop} (h : inAll = true ↔ P) :
    (P → drawStatus inAll = .ok) ∧ (¬P → drawStatus inAll = .oobRejected) := by
  cases inAll <;> simp_all [drawStatus]

/-! ### The first bad answer of a pixel source (R225) -/

theorem sourceAt_listed {src : PixelSource} {k : Nat} (h : k < src.answers.length) : sourceAt src k = src.answers[k] := by
  simp [sourceAt, List.getD_eq_getElem?_getD, h]

theorem sourceAt_rest {src : PixelSource} {k : Nat} (h : src.answers.length ≤ k) : sourceAt src k = src.rest := by
  simp [sourceAt, List.getD_eq_getElem?_getD, h]

theorem isPixel_iff (v : Byte) : isPixel v = true ↔ v = 0#8 ∨ v = 1#8 := by
  simp [isPixel]

/-- The listed answers among the first `n` are good when every answer before `n` is. -/
theorem listed_good {src : PixelSource} {n : Nat} (h : ∀ k < n, sourceAt src k = 0#8 ∨ sourceAt src k = 1#8) :
    (src.answers.take n).findIdx? (fun v => !isPixel v) = none := by
  rw [List.findIdx?_eq_none_iff]
  intro v hv
  obtain ⟨k, hk, rfl⟩ := List.getElem_of_mem hv
  have hk' : k < n ∧ k < src.answers.length := by simpa using hk
  have := h k hk'.1
  rw [sourceAt_listed hk'.2, ← isPixel_iff] at this
  simpa using this

/-- No bad answer: `firstBad` finds none. -/
theorem firstBad_eq_none {src : PixelSource} {n : Nat} (h : ∀ k < n, sourceAt src k = 0#8 ∨ sourceAt src k = 1#8) :
    firstBad src n = none := by
  unfold firstBad
  rw [listed_good h]
  refine if_neg ?_
  rintro ⟨hn, hr⟩
  have := h _ hn
  rw [sourceAt_rest (Nat.le_refl _), ← isPixel_iff] at this
  simp [this] at hr

/-- The first bad answer is the one `firstBad` finds. -/
theorem firstBad_eq_some {src : PixelSource} {n bad : Nat} (hn : bad < n)
    (h : ∀ k < bad, sourceAt src k = 0#8 ∨ sourceAt src k = 1#8) (hb : isPixel (sourceAt src bad) = false) :
    firstBad src n = some bad := by
  unfold firstBad
  by_cases hl : bad < src.answers.length
  · have : (src.answers.take n).findIdx? (fun v => !isPixel v) = some bad := by
      rw [List.findIdx?_eq_some_iff_getElem]
      refine ⟨by simp; omega, ?_, fun j hj => ?_⟩
      · rw [sourceAt_listed hl] at hb
        simp [hb]
      · have := h j hj
        rw [sourceAt_listed (by omega), ← isPixel_iff] at this
        simp [this]
    rw [this]
  · have he : bad = src.answers.length := by
      refine Nat.le_antisymm (Nat.le_of_not_lt fun hlt => ?_) (Nat.le_of_not_lt hl)
      have := h _ hlt
      rw [sourceAt_rest (Nat.le_refl _), ← isPixel_iff] at this
      rw [sourceAt_rest (Nat.le_of_not_lt hl), this] at hb
      cases hb
    have hg : (src.answers.take n).findIdx? (fun v => !isPixel v) = none := by
      have := listed_good h
      rw [he, List.take_length] at this
      rwa [List.take_of_length_le (by omega)]
    rw [hg]
    rw [sourceAt_rest (Nat.le_of_not_lt hl)] at hb
    simp [hb, ← he, hn]

end Sys2Proof.Machine
end

