-- ==== Sys2Proof/Laws/PerInstr.lean ====
section
/-!
SUPPORT. The per-instruction family CodeByte: the code byte of a request is one of R114's fourteen, and the byte a bus command
sends is one of R5's thirteen (R116a, R116c), for every configuration whose FULL_CTRL_CMD is one of them (R112).
-/

namespace Sys2Proof.Laws.CodeByte

/-- The code byte of `i` lies in its own table. -/
def Statement (i : Instr) : Prop :=
  ∀ fullCmd ∈ Config.commandBytes,
    (i.isRequest = true → codeOf fullCmd i ∈ requestCodes) ∧
    (i.isRequest = false → codeOf fullCmd i ∈ Config.commandBytes)

theorem init (mode : Int) : Statement (.init mode) :=
  fun _ _ => ⟨fun _ => by simp [codeOf, requestCodes], fun h => absurd h.symm Bool.false_ne_true⟩

theorem setWindow (xs : Int) (ys : Int) (xe : Int) (ye : Int) : Statement (.setWindow xs ys xe ye) :=
  fun _ _ => ⟨fun _ => by simp [codeOf, requestCodes], fun h => absurd h.symm Bool.false_ne_true⟩

theorem setCursor (x : Int) (y : Int) : Statement (.setCursor x y) :=
  fun _ _ => ⟨fun _ => by simp [codeOf, requestCodes], fun h => absurd h.symm Bool.false_ne_true⟩

theorem turnOn : Statement .turnOn :=
  fun _ _ => ⟨fun _ => by simp [codeOf, requestCodes], fun h => absurd h.symm Bool.false_ne_true⟩

theorem display (b : Int) : Statement (.display b) :=
  fun _ _ => ⟨fun _ => by simp [codeOf, requestCodes], fun h => absurd h.symm Bool.false_ne_true⟩

theorem displayL (b : Int) : Statement (.displayL b) :=
  fun _ _ => ⟨fun _ => by simp [codeOf, requestCodes], fun h => absurd h.symm Bool.false_ne_true⟩

theorem clear (v : Int) : Statement (.clear v) :=
  fun _ _ => ⟨fun _ => by simp [codeOf, requestCodes], fun h => absurd h.symm Bool.false_ne_true⟩

theorem sleep : Statement .sleep :=
  fun _ _ => ⟨fun _ => by simp [codeOf, requestCodes], fun h => absurd h.symm Bool.false_ne_true⟩

theorem setPixel (b : Int) (x : Int) (y : Int) (color : Int) : Statement (.setPixel b x y color) :=
  fun _ _ => ⟨fun _ => by simp [codeOf, requestCodes], fun h => absurd h.symm Bool.false_ne_true⟩

theorem fillRect (b : Int) (x : Int) (y : Int) (w : Int) (h : Int) (color : Int) : Statement (.fillRect b x y w h color) :=
  fun _ _ => ⟨fun _ => by simp [codeOf, requestCodes], fun h => absurd h.symm Bool.false_ne_true⟩

theorem fill (b : Int) (color : Int) : Statement (.fill b color) :=
  fun _ _ => ⟨fun _ => by simp [codeOf, requestCodes], fun h => absurd h.symm Bool.false_ne_true⟩

theorem blit (b : Int) (src : PixelSource) (x : Int) (y : Int) (w : Int) (h : Int) : Statement (.blit b src x y w h) :=
  fun _ _ => ⟨fun _ => by simp [codeOf, requestCodes], fun h => absurd h.symm Bool.false_ne_true⟩

theorem stext (b : Int) (text : List Byte) (x : Int) (y : Int) (scale : Int) (color : Int) : Statement (.stext b text x y scale color) :=
  fun _ _ => ⟨fun _ => by simp [codeOf, requestCodes], fun h => absurd h.symm Bool.false_ne_true⟩

theorem autofit (b : Int) (text : List Byte) (x : Int) (y : Int) (color : Int) (cap : Option Int) (center : Bool) (cv : Bool) : Statement (.autofit b text x y color cap center cv) :=
  fun _ _ => ⟨fun _ => by simp [codeOf, requestCodes], fun h => absurd h.symm Bool.false_ne_true⟩

theorem cmdSwReset : Statement .cmdSwReset :=
  fun _ _ => ⟨fun h => absurd h Bool.false_ne_true, fun _ => by simp [codeOf, Config.commandBytes]⟩

theorem cmdDataEntry : Statement .cmdDataEntry :=
  fun _ _ => ⟨fun h => absurd h Bool.false_ne_true, fun _ => by simp [codeOf, Config.commandBytes]⟩

theorem cmdWindowX (xs : Byte) (xe : Byte) : Statement (.cmdWindowX xs xe) :=
  fun _ _ => ⟨fun h => absurd h Bool.false_ne_true, fun _ => by simp [codeOf, Config.commandBytes]⟩

theorem cmdWindowY (ys : Half) (ye : Half) : Statement (.cmdWindowY ys ye) :=
  fun _ _ => ⟨fun h => absurd h Bool.false_ne_true, fun _ => by simp [codeOf, Config.commandBytes]⟩

theorem cmdCursorX (x : Byte) : Statement (.cmdCursorX x) :=
  fun _ _ => ⟨fun h => absurd h Bool.false_ne_true, fun _ => by simp [codeOf, Config.commandBytes]⟩

theorem cmdCursorY (y : Half) : Statement (.cmdCursorY y) :=
  fun _ _ => ⟨fun h => absurd h Bool.false_ne_true, fun _ => by simp [codeOf, Config.commandBytes]⟩

theorem cmdWriteRam (src : RamSource) : Statement (.cmdWriteRam src) :=
  fun _ _ => ⟨fun h => absurd h Bool.false_ne_true, fun _ => by simp [codeOf, Config.commandBytes]⟩

theorem cmdWriteLut : Statement .cmdWriteLut :=
  fun _ _ => ⟨fun h => absurd h Bool.false_ne_true, fun _ => by simp [codeOf, Config.commandBytes]⟩

theorem cmdDisplayOption : Statement .cmdDisplayOption :=
  fun _ _ => ⟨fun h => absurd h Bool.false_ne_true, fun _ => by simp [codeOf, Config.commandBytes]⟩

theorem cmdBorder : Statement .cmdBorder :=
  fun _ _ => ⟨fun h => absurd h Bool.false_ne_true, fun _ => by simp [codeOf, Config.commandBytes]⟩

theorem cmdUpdateCtrl : Statement .cmdUpdateCtrl :=
  fun _ _ => ⟨fun h => absurd h Bool.false_ne_true, fun _ => by simp [codeOf, Config.commandBytes]⟩

theorem cmdActivate : Statement .cmdActivate :=
  fun _ _ => ⟨fun h => absurd h Bool.false_ne_true, fun _ => by simp [codeOf, Config.commandBytes]⟩

theorem cmdDeepSleep : Statement .cmdDeepSleep :=
  fun _ _ => ⟨fun h => absurd h Bool.false_ne_true, fun _ => by simp [codeOf, Config.commandBytes]⟩

theorem cmdFullCtrl : Statement .cmdFullCtrl :=
  fun c hc => ⟨fun h => absurd h (by decide), fun _ => hc⟩

end Sys2Proof.Laws.CodeByte
end

