-- ==== Sys2Proof/Laws/Seq.lean ====
section
/-!
SUPPORT. The sequencer: what `runSeq` does with each item, what it never changes, and that a safe sequence leaves the
invariant's control state.
-/

namespace Sys2Proof.Machine

/-! ### One item at a time -/

@[simp] theorem runSeq_nil (n : Nat) (s : State) : runSeq n [] s = s.endOperation := rfl

/-- An item that is no wait is applied and the sequence goes on. -/
theorem runSeq_item (n : Nat) (op : SeqOp) (rest : List SeqOp) (s : State) (h : op ≠ .wait) :
    runSeq n (op :: rest) s = runSeq 0 rest (applyOp s op) := by
  cases op <;> first | rfl | exact absurd rfl h

/-- A wait whose sample answers Idle goes on (R134). -/
theorem runSeq_wait_idle (n : Nat) (rest : List SeqOp) (s : State) (h : s.nextAnswer = .idle) :
    runSeq n (.wait :: rest) s = runSeq 0 rest (s.pollWith .idle) := by
  simp [runSeq, h]

/-- A wait whose sample answers Busy stays where it is while samples are left (R134). -/
theorem runSeq_wait_busy (n : Nat) (rest : List SeqOp) (s : State) (h : s.nextAnswer = .busy)
    (ht : timedOut s.cfg (n + 1) = false) :
    runSeq n (.wait :: rest) s
      = { (s.pollWith .busy).emit [.delay .poll] with seq := .active (n + 1) (.wait :: rest) } := by
  simp [runSeq, h, ht]

/-- A wait whose last sample answers Busy ends the operation with HardwareTimeout (R134, R222). -/
theorem runSeq_wait_timeout (n : Nat) (rest : List SeqOp) (s : State) (h : s.nextAnswer = .busy)
    (ht : timedOut s.cfg (n + 1) = true) :
    runSeq n (.wait :: rest) s = (s.pollWith .busy).hardwareTimeout := by
  simp [runSeq, h, ht]

/-- Everything before the first wait is applied in order. -/
theorem runSeq_prefix (ops rest : List SeqOp) (s : State) (h : ∀ op ∈ ops, op ≠ .wait) :
    runSeq 0 (ops ++ rest) s = runSeq 0 rest (ops.foldl applyOp s) := by
  induction ops generalizing s with
  | nil => rfl
  | cons op ops ih =>
    rw [List.cons_append, runSeq_item _ _ _ _ (h op List.mem_cons_self), List.foldl_cons]
    exact ih _ fun o ho => h o (List.mem_cons_of_mem _ ho)

/-- A sequence with no wait runs to its end. -/
theorem runSeq_noWait (ops : List SeqOp) (s : State) (h : ∀ op ∈ ops, op ≠ .wait) :
    runSeq 0 ops s = (ops.foldl applyOp s).endOperation := by
  have := runSeq_prefix ops [] s h
  simpa using this

/-! ### What a sequence never changes -/

/-- What holds between a state and any later one of the same run: configuration and buffers untouched, the port untouched, TRACE
only longer, the fault flags only set (R22, R27, R28, R31). -/
structure Later (s t : State) : Prop where
  cfg : t.cfg = s.cfg
  fbP : t.fbP = s.fbP
  fbL : t.fbL = s.fbL
  port : t.port = s.port
  scale : t.res.scale = s.res.scale
  lines : t.res.lines = s.res.lines
  trace : s.trace <+: t.trace
  timeout : s.fault.timeout = true → t.fault.timeout = true
  seqFlag : s.fault.seq = true → t.fault.seq = true

theorem Later.refl (s : State) : Later s s :=
  ⟨rfl, rfl, rfl, rfl, rfl, rfl, List.prefix_refl _, id, id⟩

theorem Later.trans {s t u : State} (h : Later s t) (g : Later t u) : Later s u :=
  ⟨g.cfg.trans h.cfg, g.fbP.trans h.fbP, g.fbL.trans h.fbL, g.port.trans h.port, g.scale.trans h.scale,
    g.lines.trans h.lines, h.trace.trans g.trace, fun a => g.timeout (h.timeout a), fun a => g.seqFlag (h.seqFlag a)⟩

theorem applyOp_later (s : State) (op : SeqOp) : Later s (applyOp s op) := by
  cases op <;> constructor <;> simp [applyOp]

theorem pollWith_later (s : State) (r : Answer) : Later s (s.pollWith r) := by
  constructor <;> simp

theorem hardwareTimeout_later (s : State) : Later s s.hardwareTimeout := by
  constructor <;> simp

theorem endOperation_later (s : State) : Later s s.endOperation := by
  constructor <;> simp

/-- The frame of every sequence. -/
theorem runSeq_later (n : Nat) (ops : List SeqOp) (s : State) : Later s (runSeq n ops s) := by
  induction ops generalizing n s with
  | nil => exact endOperation_later s
  | cons op ops ih =>
    by_cases h : op = .wait
    · subst h
      cases hr : s.nextAnswer with
      | idle =>
        rw [runSeq_wait_idle _ _ _ hr]
        exact (pollWith_later s _).trans (ih _ _)
      | busy =>
        cases ht : timedOut s.cfg (n + 1) with
        | true =>
          rw [runSeq_wait_timeout _ _ _ hr ht]
          exact (pollWith_later s _).trans (hardwareTimeout_later _)
        | false =>
          rw [runSeq_wait_busy _ _ _ hr ht]
          constructor <;> simp
    · rw [runSeq_item _ _ _ _ h]
      exact (applyOp_later s op).trans (ih _ _)

/-! ### How a started operation stops -/

/-- A sequence as `startOp` makes it: no item writes RES.STATUS but the last, which writes OK (R12, R228). -/
def endsOk (ops : List SeqOp) : Prop :=
  ∃ body, ops = body ++ [.status .ok] ∧ ∀ op ∈ body, ∀ st, op ≠ .status st

/-- Where such a sequence stops: at its end with status OK and the flags as they were; with HardwareTimeout, its status and its flag; or at
a wait, with the flags as they were and such a sequence to go on with (R222, R228). -/
theorem runSeq_stops (n : Nat) (ops : List SeqOp) (s : State) (h : endsOk ops) :
    ((runSeq n ops s).seq = .idle ∧ (runSeq n ops s).res.status = .ok ∧ (runSeq n ops s).fault = s.fault) ∨
    ((runSeq n ops s).seq = .idle ∧ (runSeq n ops s).res.status = .timeout ∧ (runSeq n ops s).fault.timeout = true) ∨
    ((∃ k rest, (runSeq n ops s).seq = .active k rest ∧ endsOk rest) ∧ (runSeq n ops s).fault = s.fault) := by
  obtain ⟨body, rfl, hb⟩ := h
  induction body generalizing n s with
  | nil => exact .inl ⟨rfl, rfl, rfl⟩
  | cons op body ih =>
    have hb' : ∀ op ∈ body, ∀ st, op ≠ .status st := fun o ho => hb o (List.mem_cons_of_mem _ ho)
    rw [List.cons_append]
    by_cases hw : op = .wait
    · subst hw
      cases hr : s.nextAnswer with
      | idle =>
        rw [runSeq_wait_idle _ _ _ hr]
        exact ih 0 (s.pollWith .idle) hb'
      | busy =>
        cases ht : timedOut s.cfg (n + 1) with
        | true =>
          rw [runSeq_wait_timeout _ _ _ hr ht]
          exact .inr (.inl ⟨rfl, rfl, rfl⟩)
        | false =>
          rw [runSeq_wait_busy _ _ _ hr ht]
          exact .inr (.inr ⟨⟨n + 1, _, rfl, .wait :: body, rfl, hb⟩, rfl⟩)
    · rw [runSeq_item _ _ _ _ hw]
      have hf : (applyOp s op).fault = s.fault := by cases op <;> rfl
      exact hf ▸ ih 0 (applyOp s op) hb'

/-! ### The invariant's control state -/

/-- A safe sequence leaves the sequencer in the invariant's control state. -/
theorem runSeq_seqInv (n : Nat) (ops : List SeqOp) (s : State) (hl : s.latch ≠ none)
    (h : seqSafe s.phase s.mode ops = true) : (runSeq n ops s).seqInv := by
  induction ops generalizing n s with
  | nil => exact ⟨rfl, .inl (by simpa [seqSafe] using h)⟩
  | cons op ops ih =>
    cases op with
    | wait =>
      simp only [seqSafe, Bool.and_eq_true] at h
      cases hr : s.nextAnswer with
      | idle =>
        rw [runSeq_wait_idle _ _ _ hr]
        exact ih _ _ (by simpa using hl) (by simpa using h.2)
      | busy =>
        cases ht : timedOut s.cfg (n + 1) with
        | true =>
          rw [runSeq_wait_timeout _ _ _ hr ht]
          exact ⟨rfl, .inr ⟨rfl, by simpa using h.1⟩⟩
        | false =>
          rw [runSeq_wait_busy _ _ _ hr ht]
          exact ⟨by simpa using hl, Nat.succ_pos n, by simpa using ht, rfl, by simpa [seqSafe] using h⟩
    | emit es => exact ih _ _ hl h
    | phase p => exact ih _ _ hl h
    | mode m => exact ih _ _ hl h
    | forget => exact ih _ _ hl h
    | win w => exact ih _ _ hl h
    | cur c => exact ih _ _ hl h
    | status st => exact ih _ _ hl h

end Sys2Proof.Machine
end

