-- ==== Sys2Proof/Laws/Pins.lean ====
section
/-!
SUPPORT. The reset line: what `releasesReset` says of joined events, that it is the line's level (R29, R93), and that a sequence whose
items leave no reset pulse open leaves none.
-/

namespace Sys2Proof.Machine

@[simp] theorem releasesReset_nil : releasesReset [] = true := rfl

/-- Events with no reset edge leave no pulse open. -/
theorem releasesReset_of_noEdge {es : List Event} (h : ∀ e ∈ es, e ≠ .rstLow ∧ e ≠ .rstHigh) : releasesReset es = true := by
  have : es.filter (fun e => e == .rstLow || e == .rstHigh) = [] := by
    rw [List.filter_eq_nil_iff]
    intro e he
    simp [h e he]
  unfold releasesReset
  rw [this]
  rfl

/-- Joined events: the later edges decide, if there are any. -/
theorem releasesReset_append {es fs : List Event} (h : releasesReset es = true) (g : releasesReset fs = true) :
    releasesReset (es ++ fs) = true := by
  unfold releasesReset at *
  rw [List.filter_append]
  cases hf : (fs.filter fun e => e == .rstLow || e == .rstHigh) with
  | nil => simpa using h
  | cons e es => simp_all [List.getLast?_append]

/-- A command with register parameters has no reset edge. -/
@[simp] theorem releasesReset_register (c : Byte) (bs : List Byte) : releasesReset (register c bs) = true :=
  releasesReset_of_noEdge fun e he => by
    simp only [register, List.mem_cons, List.mem_map] at he
    obtain rfl | ⟨b, -, rfl⟩ := he <;> exact ⟨by simp [sendCommand, sendData], by simp [sendCommand, sendData]⟩

/-- The RAM stream has no reset edge. -/
@[simp] theorem releasesReset_ramStream (s : State) (src : RamSource) :
    releasesReset (sendCommand 0x24#8 :: ramStream s src) = true :=
  releasesReset_of_noEdge fun e he => by
    rw [List.mem_cons] at he
    obtain rfl | he := he
    · exact ⟨by simp [sendCommand], by simp [sendCommand]⟩
    · cases src <;> simp only [ramStream, List.mem_singleton, List.mem_map] at he
      · subst he; exact ⟨by simp [sendRun], by simp [sendRun]⟩
      · obtain ⟨b, -, rfl⟩ := he; exact ⟨by simp [sendData], by simp [sendData]⟩
      · subst he; exact ⟨by simp [sendRun], by simp [sendRun]⟩

/-- A sequence whose items leave no pulse open leaves none where it stops (R29). -/
theorem runSeq_resetInv (n : Nat) (ops : List SeqOp) (s : State) (ht : releasesReset s.trace = true)
    (h : ops.all SeqOp.releases = true) : (runSeq n ops s).resetInv := by
  induction ops generalizing n s with
  | nil => exact ⟨ht, trivial⟩
  | cons op ops ih =>
    have h2 : op.releases = true ∧ ops.all SeqOp.releases = true := by simpa using h
    cases op with
    | wait =>
      cases hr : s.nextAnswer with
      | idle =>
        rw [runSeq_wait_idle _ _ _ hr]
        exact ih _ _ (releasesReset_append ht rfl) h2.2
      | busy =>
        cases hb : timedOut s.cfg (n + 1) with
        | true =>
          rw [runSeq_wait_timeout _ _ _ hr hb]
          exact ⟨releasesReset_append ht rfl, trivial⟩
        | false =>
          rw [runSeq_wait_busy _ _ _ hr hb]
          exact ⟨releasesReset_append (releasesReset_append ht rfl) rfl, h⟩
    | emit es => exact ih _ _ (releasesReset_append ht h2.1) h2.2
    | phase p => exact ih _ _ ht h2.2
    | mode m => exact ih _ _ ht h2.2
    | forget => exact ih _ _ ht h2.2
    | win w => exact ih _ _ ht h2.2
    | cur c => exact ih _ _ ht h2.2
    | status st => exact ih _ _ ht h2.2

end Sys2Proof.Machine
end

