-- ==== Sys2Proof/Laws/Step.lean ====
section
/-!
SUPPORT. What a step can do, said once: which of its four cases answered, and what a request can leave behind.
-/

namespace Sys2Proof.Machine

/-- No meaning stops: `exec` answers a next state for every instruction and state (R220). -/
theorem exec_next (i : Instr) (s : State) : ∃ t, exec i s = .next t := by
  cases i <;> exact ⟨_, rfl⟩

/-- A frame that decodes is a host request (R116a, R136). -/
theorem decodeFrame_isRequest {frame : List Byte} {i : Instr} (h : decodeFrame frame = .ok i) : i.isRequest = true := by
  unfold decodeFrame at h
  split at h
  · cases h
  · split at h
    · cases h; assumption
    · cases h
  · split at h <;> cases h

/-- The cases of a step that answers a next state. -/
theorem step_cases {s t : State} (h : step s = .next t) :
    s.cfg.legal = true ∧
      ((∃ n rest, s.seq = .active n rest ∧ t = runSeq n rest s) ∨
       (s.seq = .idle ∧ s.port = [] ∧ t = s) ∨
       (∃ frame fs i, s.seq = .idle ∧ s.port = frame :: fs ∧ decodeFrame frame = .ok i ∧ exec i s.popPort = .next t) ∨
       (∃ frame fs e, s.seq = .idle ∧ s.port = frame :: fs ∧ decodeFrame frame = .error e ∧ t = s.popPort.badRequest)) := by
  unfold step at h
  split at h
  · rename_i hl
    refine ⟨hl, ?_⟩
    split at h
    · rename_i n rest hs
      cases h
      exact .inl ⟨n, rest, hs, rfl⟩
    · rename_i hs
      split at h
      · rename_i hp
        cases h
        exact .inr (.inl ⟨hs, hp, rfl⟩)
      · rename_i frame fs hp
        split at h
        · rename_i i hd
          exact .inr (.inr (.inl ⟨frame, fs, i, hs, hp, hd, h⟩))
        · rename_i e hd
          cases h
          exact .inr (.inr (.inr ⟨frame, fs, e, hs, hp, hd, rfl⟩))
  · cases h

/-- A sequence that `startOp` takes: no item leaves a reset pulse open (R29), and none writes RES.STATUS. -/
def quiet (ops : List SeqOp) : Prop :=
  ops.all SeqOp.releases = true ∧ ∀ op ∈ ops, ∀ st, op ≠ .status st

/-- What a request leaves behind: a status only; a refusal for the phase; an operation started with a sequence that is safe from
a rest state and quiet; or one buffer drawn and RES written. -/
inductive RequestEffect (i : Instr) (s : State) : State → Prop where
  | status (st : Status) (h : st = .badRequest ∨ st = .unsupportedMode) : RequestEffect i s (s.setStatus st)
  | refused (hp : s.phase ≠ .idle) : RequestEffect i s s.phaseRefused
  | started (ops : List SeqOp) (h : restState .idle s.mode = true ∨ (∃ mode, i = .init mode) →
      seqSafe s.phase s.mode (ops ++ [.status .ok]) = true) (hp : s.phase = .idle ∨ ∃ mode, i = .init mode)
      (hq : quiet ops) :
      RequestEffect i s (s.startOp i ops)
  | drawn (b : Buf) (m : Memory) (r : Results)
      (hr : r.status = .ok ∨ r.status = .oobRejected ∨ r.status = .badRequest)
      (hm : ∀ P : Memory → Prop, (∀ px py color v, P v.mem → P (putPixel s.cfg b px py color v).mem) →
        (∀ v, P (Memory.uniform s.cfg.fbLen v)) → P (s.mem b) → P m) :
      RequestEffect i s { s.setMem b m with res := r }

theorem winSeq_quiet (xs ys xe ye : Int) : quiet (winSeq xs ys xe ye) := by
  constructor <;> simp [winSeq, windowXSeq, windowYSeq, SeqOp.releases]

theorem curSeq_quiet (x y : Int) : quiet (curSeq x y) := by
  constructor <;> simp [curSeq, cursorXSeq, cursorYSeq, SeqOp.releases]

theorem refreshSeq_quiet : quiet refreshSeq := by
  constructor <;> simp [refreshSeq, activateSeq, SeqOp.releases]

theorem showSeq_quiet (s : State) (src : RamSource) : quiet (showSeq s src) := by
  constructor <;> simp [showSeq, curSeq, cursorXSeq, cursorYSeq, writeRamSeq, refreshSeq, activateSeq, SeqOp.releases]

theorem sleepSeq_quiet (c : Cfg) : quiet (sleepSeq c) := by
  constructor <;> simp [sleepSeq, deepSleepSeq, SeqOp.releases]

/-- `init`'s own reset pulse ends with RstHigh (R130, R140). -/
theorem initSeq_quiet {c : Cfg} {mode : Int} {ops : List SeqOp} (h : initSeq c mode = some ops) : quiet ops := by
  have pulse : releasesReset resetPulse = true := rfl
  unfold initSeq at h
  split at h
  · cases h
    constructor <;> simp [initPrefix, fullBranch, swResetSeq, dataEntrySeq, winSeq, windowXSeq, windowYSeq, fullCtrlSeq,
      SeqOp.releases, pulse]
  · split at h <;> cases h
    constructor <;> simp [initPrefix, partialBranch, swResetSeq, dataEntrySeq, winSeq, windowXSeq, windowYSeq, writeLutSeq,
      displayOptionSeq, borderSeq, updateCtrlSeq, refreshSeq, activateSeq, SeqOp.releases, pulse]

theorem drawStatus_ends (inAll : Bool) :
    drawStatus inAll = .ok ∨ drawStatus inAll = .oobRejected ∨ drawStatus inAll = .badRequest := by
  cases inAll <;> simp [drawStatus]

theorem protocolOp_effect (i : Instr) (s : State) (ops : List SeqOp)
    (h : ∀ m, restState .idle m = true → seqSafe .idle m (ops ++ [.status .ok]) = true) (hi : ¬∃ mode, i = .init mode)
    (hq : quiet ops) : RequestEffect i s (s.protocolOp i ops) := by
  unfold State.protocolOp
  split
  · split
    · rename_i hp
      exact .started ops (fun hm => hp ▸ h _ (hm.resolve_right hi)) (.inl hp) hq
    · rename_i hp
      exact .refused hp
  · exact .status _ (.inl rfl)

/-- Every request has one of these effects. -/
theorem exec_request {i : Instr} {s t : State} (hr : i.isRequest = true) (h : exec i s = .next t) : RequestEffect i s t := by
  cases i with
  | init mode =>
    cases h
    split
    · split
      · rename_i ops ho
        refine .started ops (fun _ => ?_) (.inr ⟨mode, rfl⟩) (initSeq_quiet ho)
        unfold initSeq at ho
        split at ho
        · cases ho; rfl
        · split at ho <;> cases ho
          rfl
      · exact .status _ (.inr rfl)
    · exact .status _ (.inl rfl)
  | setWindow xs ys xe ye => cases h; exact protocolOp_effect _ _ _ (fun _ h => h) (by simp) (winSeq_quiet _ _ _ _)
  | setCursor x y => cases h; exact protocolOp_effect _ _ _ (fun _ h => h) (by simp) (curSeq_quiet _ _)
  | turnOn => cases h; exact protocolOp_effect _ _ _ (fun m h => by cases m <;> first | rfl | exact h) (by simp) refreshSeq_quiet
  | display b => cases h; exact protocolOp_effect _ _ _ (fun m h => by cases m <;> first | rfl | exact h) (by simp) (showSeq_quiet _ _)
  | displayL b => cases h; exact protocolOp_effect _ _ _ (fun m h => by cases m <;> first | rfl | exact h) (by simp) (showSeq_quiet _ _)
  | clear v => cases h; exact protocolOp_effect _ _ _ (fun m h => by cases m <;> first | rfl | exact h) (by simp) (showSeq_quiet _ _)
  | sleep => cases h; exact protocolOp_effect _ _ _ (fun _ h => h) (by simp) (sleepSeq_quiet _)
  | setPixel b x y color =>
    cases h
    split
    · exact .drawn (bufOf b) _ _ (drawStatus_ends _) fun P hp _ h0 => hp _ _ _ _ h0
    · exact .status _ (.inl rfl)
  | fillRect b x y w h color =>
    cases h
    split
    · exact .drawn (bufOf b) _ _ (drawStatus_ends _) fun P hp _ h0 => rect_keeps P _ _ _ _ _ _ _ _ hp h0
    · exact .status _ (.inl rfl)
  | fill b color =>
    cases h
    split
    · exact .drawn (bufOf b) _ _ (.inl rfl) fun P _ hu _ => hu _
    · exact .status _ (.inl rfl)
  | blit b src x y w h =>
    cases h
    split
    · split
      · exact .drawn (bufOf b) _ _ (.inr (.inr rfl)) fun P hp _ h0 => blitPixels_keeps P _ _ _ _ _ _ _ _ _ hp h0
      · exact .drawn (bufOf b) _ _ (drawStatus_ends _) fun P hp _ h0 => blitPixels_keeps P _ _ _ _ _ _ _ _ _ hp h0
    · exact .status _ (.inl rfl)
  | stext b text x y scale color =>
    cases h
    split
    · exact .drawn (bufOf b) _ _ (drawStatus_ends _) fun P hp _ h0 => stb_keeps P _ _ _ _ _ _ _ _ hp h0
    · exact .status _ (.inl rfl)
  | autofit b text x y color cap center cv =>
    cases h
    split
    · simp only [State.drawn, State.setFit_setMem]
      exact .drawn (bufOf b) _ _ (drawStatus_ends _) fun P hp _ h0 => paintFitted_keeps P _ _ _ _ _ _ _ _ _ _ hp h0
    · exact .status _ (.inl rfl)
  | _ => cases hr

end Sys2Proof.Machine
end

