-- ==== Sys2Proof/Laws/Run.lean ====
section
/-!
SUPPORT. Runs (R271): one step of a run at a time, and which status, flag and request one step of a run accounts for.
-/

namespace Sys2Proof.Machine

@[simp] theorem run_zero (s : State) : Host.Core.run Sys2Proof.core 0 s = .next s := rfl

/-- A run of n + 1 steps that answers is one step that answers and a run of n. -/
theorem run_succ_eq {n : Nat} {s t : State} :
    Host.Core.run Sys2Proof.core (n + 1) s = .next t ↔
      ∃ u, step s = .next u ∧ Host.Core.run Sys2Proof.core n u = .next t := by
  rw [Host.Core.run.eq_2 Sys2Proof.core s n]
  cases hs : step s with
  | next u =>
    rw [show Sys2Proof.core.step s = .next u from hs]
    exact ⟨fun h => ⟨u, rfl, h⟩, fun ⟨_, h, h'⟩ => by cases h; exact h'⟩
  | fault r => cases r
  | refused r =>
    rw [show Sys2Proof.core.step s = .refused r from hs]
    exact ⟨nofun, fun ⟨_, h, _⟩ => nomatch h⟩

@[simp] theorem statuses_zero (s : State) : statuses 0 s = [] := rfl

theorem statuses_succ {s u : State} (n : Nat) (h : step s = .next u) :
    statuses (n + 1) s = completed s u ++ statuses n u := by
  simp only [statuses, h]

/-- A state of a run: inside an operation the rest of its sequence ends with RES.STATUS <- OK and writes no status before. -/
def inRun (s : State) : Prop :=
  match s.seq with
  | .idle => True
  | .active _ rest => endsOk rest

/-- What S.FAULT and RES.STATUS are when a request ends: TIMEOUT with its flag, PHASE_REFUSED with its flag, or another status with the flags
as they were (R220, R222, R223). -/
def endsWith (s t : State) : Prop :=
  (t.res.status = .timeout ∧ t.fault.timeout = true) ∨ (t.res.status = .phaseRefused ∧ t.fault.seq = true) ∨
    (t.res.status ≠ .timeout ∧ t.res.status ≠ .phaseRefused ∧ t.fault = s.fault)

/-- One step of a run with something to do: a request leaves the port exactly when none was in progress; the flags change only with the
end of a request. -/
structure RunStep (s t : State) : Prop where
  inRun : inRun t
  taken : s.seq = .idle → t.port = s.port.tail
  kept : s.seq ≠ .idle → t.port = s.port
  goesOn : t.seq ≠ .idle → t.fault = s.fault
  ends : t.seq = .idle → endsWith s t

/-- A sequence of `startOp` keeps a run a run. -/
theorem runSeq_runStep {s u : State} (n : Nat) {ops : List SeqOp} (hu : u.fault = s.fault) (h : endsOk ops)
    (htaken : s.seq = .idle → u.port = s.port.tail) (hkept : s.seq ≠ .idle → u.port = s.port) : RunStep s (runSeq n ops u) := by
  have hp := (runSeq_later n ops u).port
  rcases runSeq_stops n ops u h with ⟨a, b, c⟩ | ⟨a, b, c⟩ | ⟨⟨k, rest, a, b⟩, c⟩ <;>
    constructor <;> simp_all [Machine.inRun, endsWith]

/-- Every step of a run with something to do is such a step. -/
theorem step_runStep {s t : State} (hr : inRun s) (hne : ¬(s.seq = .idle ∧ s.port = [])) (h : step s = .next t) : RunStep s t := by
  obtain ⟨-, h⟩ := step_cases h
  rcases h with ⟨n, rest, hs, rfl⟩ | ⟨hs, hp, rfl⟩ | ⟨frame, fs, i, hs, hp, hd, h⟩ | ⟨frame, fs, e, hs, hp, hd, rfl⟩
  · unfold Machine.inRun at hr
    rw [hs] at hr
    exact runSeq_runStep n rfl hr (by simp [hs]) fun _ => rfl
  · exact absurd ⟨hs, hp⟩ hne
  · have effect := exec_request (decodeFrame_isRequest hd) h
    clear h
    cases effect with
    | status st hst => constructor <;> rcases hst with rfl | rfl <;> simp [Machine.inRun, endsWith, hs]
    | refused hp => constructor <;> simp [Machine.inRun, endsWith, hs]
    | started ops h hp hq => exact runSeq_runStep 0 rfl ⟨ops, rfl, hq.2⟩ (fun _ => rfl) (absurd hs)
    | drawn b m r hr hm => constructor <;> rcases hr with hr | hr | hr <;> simp [Machine.inRun, endsWith, hs, hr]
  · constructor <;> simp [Machine.inRun, endsWith, hs, State.badRequest]

/-- Where a run has nothing to do a step changes nothing (R250; log entry 15). -/
theorem step_idle {s t : State} (hs : s.seq = .idle) (hp : s.port = []) (h : step s = .next t) : t = s := by
  obtain ⟨-, ⟨n, rest, hs', -⟩ | ⟨-, -, h⟩ | ⟨frame, fs, i, -, hp', -⟩ | ⟨frame, fs, e, -, hp', -⟩⟩ := step_cases h
  · simp [hs] at hs'
  · exact h
  · simp [hp] at hp'
  · simp [hp] at hp'

end Sys2Proof.Machine
end

