-- ==== Sys2Proof/Laws/Text.lean ====
section
/-!
SUPPORT. What the scale search answers (R198) and what the greedy wrap's loop keeps (R197), said once.
-/

namespace Sys2Proof.Machine

/-- The search either answers the largest accepted candidate of 1 .. n, or none is accepted (R198). -/
theorem search_cases (c : Cfg) (inputLines : List Line) (n : Nat) :
    (∃ S lines, search c inputLines n = some (S, lines) ∧ 1 ≤ S ∧ S ≤ n ∧ candidate c inputLines S = some lines ∧
      ∀ S', S < S' → S' ≤ n → candidate c inputLines S' = none) ∨
    (search c inputLines n = none ∧ ∀ S', 1 ≤ S' → S' ≤ n → candidate c inputLines S' = none) := by
  induction n with
  | zero => exact .inr ⟨rfl, by omega⟩
  | succ n ih =>
    cases hc : candidate c inputLines (n + 1) with
    | some lines => exact .inl ⟨n + 1, lines, by simp [search, hc], by omega, Nat.le_refl _, hc, by omega⟩
    | none =>
      have last : ∀ S', S' ≤ n + 1 → (S' ≤ n → candidate c inputLines S' = none) → candidate c inputLines S' = none := by
        intro S' h1 h2
        rcases Nat.lt_or_ge n S' with h | h
        · rwa [show S' = n + 1 by omega]
        · exact h2 h
      rcases ih with ⟨S, lines, h1, h2, h3, h4, h5⟩ | ⟨h1, h2⟩
      · exact .inl ⟨S, lines, by simp [search, hc, h1], h2, by omega, h4, fun S' a b => last S' b (h5 S' a)⟩
      · exact .inr ⟨by simp [search, hc, h1], fun S' a b => last S' b (h2 S' a)⟩

/-- A candidate is accepted when its wrap succeeds with few enough lines (R198). -/
theorem candidate_eq_some {c : Cfg} {inputLines lines : List Line} {S : Nat} :
    candidate c inputLines S = some lines ↔
      wrapAll (c.txtW / (8 * S)) inputLines = some lines ∧ lines.length ≤ c.txtH / (8 * S) := by
  unfold candidate
  split
  · simp_all
  · rename_i ls h
    split <;> simp_all <;> grind

/-- The chosen scale is at least 1, the fallback included (R198, R199). -/
theorem fitText_pos (c : Cfg) (text : Line) (cap : Option Int) : 1 ≤ (fitText c text cap).1 := by
  unfold fitText
  rcases search_cases c ((splitLines text).map trim) (maxScale c cap).toNat with ⟨S, lines, h, h1, _⟩ | ⟨h, _⟩
  · rw [h]
    exact h1
  · rw [h]
    exact Nat.succ_pos 2

end Sys2Proof.Machine
end

