-- ==== Sys2Proof/Tests/Slice0.lean ====
section
/-!
SUPPORT. The model's own tests: WellFormed, decoding from words written out from the tables of R114 and R100 to R113, the spec's vectors
(95_test_vectors.md, expected values copied from it), and for every statement with hypotheses a named witness that meets them.
-/

namespace Sys2Proof.Tests

open Sys2Proof Sys2Proof.Machine

/-! ### Small machines -/

/-- SMALL8x2 of 95_test_vectors.md section 5. -/
def tiny : Cfg := { Config.reference with wPx := 8, hPx := 2 }

/-- SMALL16x3. -/
def small : Cfg := { Config.reference with wPx := 16, hPx := 3 }

/-- A build with a bounded wait. -/
def bounded (c : Cfg) (n : Nat) : Cfg := { c with busyTimeout := some n }

/-- Right after reset, with the environment's answers to come. -/
def fresh (c : Cfg) (answers : List Answer) : State := { State.resetWith c with answers := answers }

/-- "In Idle" (section 1): after `init(MODE_FULL)`, TRACE emptied. -/
def up (c : Cfg) (answers : List Answer) : State :=
  { fresh c answers with phase := .idle, mode := .fullRefresh, win := some ⟨1#8, 0#16, 19#8, 296#16⟩ }

/-- An operation at a wait that has taken `n` samples. -/
def atWait (c : Cfg) (n : Nat) (answers : List Answer) : State :=
  { up c answers with phase := .refreshing, seq := .active n [.wait, .phase .idle, .status .ok], latch := some .turnOn }

/-- The next state of an instruction. -/
def run (i : Instr) (s : State) : Option State :=
  match exec i s with
  | .next t => some t
  | .fault _ => none
  | .refused _ => none

/-- The next state of a step. -/
def next (s : State) : Option State :=
  match step s with
  | .next t => some t
  | .fault _ => none
  | .refused _ => none

/-- The state after `n` steps. -/
def runs (n : Nat) (s : State) : Option State :=
  match Host.Core.run Sys2Proof.core n s with
  | .next t => some t
  | .fault _ => none
  | .refused _ => none

/-- An integer operand below 256 as eight bytes. -/
def int8 (b : Byte) : List Byte := [b, 0#8, 0#8, 0#8, 0#8, 0#8, 0#8, 0#8]

/-! ### WellFormed: each check refuses an operand one past the field -/

theorem test_wf_edges : fitsField (2 ^ 63 - 1) = true ∧ fitsField (-2 ^ 63) = true ∧
    fitsField (2 ^ 63) = false ∧ fitsField (-2 ^ 63 - 1) = false := by decide

theorem test_wf_protocol_refuses :
    (Instr.init (2 ^ 63)).wellFormed = false ∧
    (Instr.setWindow (2 ^ 63) 0 0 0).wellFormed = false ∧ (Instr.setWindow 0 (2 ^ 63) 0 0).wellFormed = false ∧
    (Instr.setWindow 0 0 (2 ^ 63) 0).wellFormed = false ∧ (Instr.setWindow 0 0 0 (2 ^ 63)).wellFormed = false ∧
    (Instr.setCursor (2 ^ 63) 0).wellFormed = false ∧ (Instr.setCursor 0 (2 ^ 63)).wellFormed = false ∧
    (Instr.display (2 ^ 63)).wellFormed = false ∧ (Instr.displayL (2 ^ 63)).wellFormed = false ∧
    (Instr.clear (2 ^ 63)).wellFormed = false := by decide

theorem test_wf_buffer_refuses :
    (Instr.setPixel (2 ^ 63) 0 0 0).wellFormed = false ∧ (Instr.setPixel 0 (2 ^ 63) 0 0).wellFormed = false ∧
    (Instr.setPixel 0 0 (2 ^ 63) 0).wellFormed = false ∧ (Instr.setPixel 0 0 0 (2 ^ 63)).wellFormed = false ∧
    (Instr.fillRect (2 ^ 63) 0 0 0 0 0).wellFormed = false ∧ (Instr.fillRect 0 (2 ^ 63) 0 0 0 0).wellFormed = false ∧
    (Instr.fillRect 0 0 (2 ^ 63) 0 0 0).wellFormed = false ∧ (Instr.fillRect 0 0 0 (2 ^ 63) 0 0).wellFormed = false ∧
    (Instr.fillRect 0 0 0 0 (2 ^ 63) 0).wellFormed = false ∧ (Instr.fillRect 0 0 0 0 0 (2 ^ 63)).wellFormed = false ∧
    (Instr.fill (2 ^ 63) 0).wellFormed = false ∧ (Instr.fill 0 (2 ^ 63)).wellFormed = false ∧
    (Instr.blit (2 ^ 63) ⟨[], 0#8⟩ 0 0 0 0).wellFormed = false ∧ (Instr.blit 0 ⟨[], 0#8⟩ (2 ^ 63) 0 0 0).wellFormed = false ∧
    (Instr.blit 0 ⟨[], 0#8⟩ 0 (2 ^ 63) 0 0).wellFormed = false ∧ (Instr.blit 0 ⟨[], 0#8⟩ 0 0 (2 ^ 63) 0).wellFormed = false ∧
    (Instr.blit 0 ⟨[], 0#8⟩ 0 0 0 (2 ^ 63)).wellFormed = false := by decide

theorem test_wf_text_refuses :
    (Instr.stext (2 ^ 63) [] 0 0 0 0).wellFormed = false ∧ (Instr.stext 0 [] (2 ^ 63) 0 0 0).wellFormed = false ∧
    (Instr.stext 0 [] 0 (2 ^ 63) 0 0).wellFormed = false ∧ (Instr.stext 0 [] 0 0 (2 ^ 63) 0).wellFormed = false ∧
    (Instr.stext 0 [] 0 0 0 (2 ^ 63)).wellFormed = false ∧
    (Instr.autofit (2 ^ 63) [] 0 0 0 none true true).wellFormed = false ∧
    (Instr.autofit 0 [] (2 ^ 63) 0 0 none true true).wellFormed = false ∧
    (Instr.autofit 0 [] 0 (2 ^ 63) 0 none true true).wellFormed = false ∧
    (Instr.autofit 0 [] 0 0 (2 ^ 63) none true true).wellFormed = false ∧
    (Instr.autofit 0 [] 0 0 0 (some (2 ^ 63)) true true).wellFormed = false := by decide

/-! ### Decoding: for every constructor a word written out from the tables (R114, R100 to R113) -/

theorem test_decode_protocol :
    decodeFrame (0x80#8 :: int8 1#8) = .ok (.init 1) ∧
    decodeFrame (0x81#8 :: (int8 8#8 ++ int8 0#8 ++ int8 152#8 ++ [0x28#8, 0x01#8, 0#8, 0#8, 0#8, 0#8, 0#8, 0#8]))
      = .ok (.setWindow 8 0 152 296) ∧
    decodeFrame (0x82#8 :: ([0x12#8, 0x01#8, 0#8, 0#8, 0#8, 0#8, 0#8, 0#8] ++ List.replicate 8 0xFF#8))
      = .ok (.setCursor 274 (-1)) ∧
    decodeFrame [0x83#8] = .ok .turnOn ∧
    decodeFrame (0x84#8 :: int8 0#8) = .ok (.display 0) ∧
    decodeFrame (0x85#8 :: int8 1#8) = .ok (.displayL 1) ∧
    decodeFrame (0x86#8 :: int8 255#8) = .ok (.clear 255) ∧
    decodeFrame [0x87#8] = .ok .sleep := by decide

theorem test_decode_buffer :
    decodeFrame (0x90#8 :: (int8 1#8 ++ int8 3#8 ++ int8 10#8 ++ int8 0#8)) = .ok (.setPixel 1 3 10 0) ∧
    decodeFrame (0x91#8 :: (int8 0#8 ++ int8 6#8 ++ int8 1#8 ++ int8 4#8 ++ int8 2#8 ++ int8 0#8))
      = .ok (.fillRect 0 6 1 4 2 0) ∧
    decodeFrame (0x92#8 :: (int8 0#8 ++ int8 1#8)) = .ok (.fill 0 1) ∧
    decodeFrame (0x93#8 :: (int8 0#8 ++ [1#8, 1#8, 0#8, 0#8] ++ int8 10#8 ++ int8 20#8 ++ int8 2#8 ++ int8 3#8))
      = .ok (.blit 0 ⟨[1#8], 0#8⟩ 10 20 2 3) := by decide

theorem test_decode_text :
    decodeFrame (0xA0#8 :: (int8 0#8 ++ [1#8, 0x49#8, 0#8] ++ int8 5#8 ++ int8 7#8 ++ int8 2#8 ++ int8 0#8))
      = .ok (.stext 0 [0x49#8] 5 7 2 0) ∧
    decodeFrame (0xA1#8 :: (int8 1#8 ++ [1#8, 0x41#8, 1#8, 0x0A#8, 0#8] ++ int8 3#8 ++ int8 4#8 ++ int8 0#8 ++ [0#8] ++ [1#8] ++ [0#8]))
      = .ok (.autofit 1 [0x41#8, 0x0A#8] 3 4 0 none true false) ∧
    decodeFrame (0xA1#8 :: (int8 1#8 ++ [0#8] ++ int8 0#8 ++ int8 0#8 ++ int8 0#8 ++ (1#8 :: int8 2#8) ++ [0#8] ++ [1#8]))
      = .ok (.autofit 1 [] 0 0 0 (some 2) false true) := by decide

theorem test_decode_commands :
    decode none [0x12#8] = .ok (.cmdSwReset, []) ∧ decode none [0x11#8] = .ok (.cmdDataEntry, []) ∧
    decode none [0x44#8, 1#8, 0x13#8] = .ok (.cmdWindowX 1#8 0x13#8, []) ∧
    decode none [0x45#8, 0#8, 0#8, 0x28#8, 0x01#8] = .ok (.cmdWindowY 0#16 296#16, []) ∧
    decode none [0x4E#8, 1#8] = .ok (.cmdCursorX 1#8, []) ∧
    decode none [0x4F#8, 0x2C#8, 0x01#8] = .ok (.cmdCursorY 300#16, []) ∧
    decode none [0x24#8, 0#8, 0#8] = .ok (.cmdWriteRam (.verbatim .portrait), []) ∧
    decode none [0x24#8, 1#8, 1#8] = .ok (.cmdWriteRam (.rotated .landscape), []) ∧
    decode none [0x24#8, 2#8, 0xFF#8] = .ok (.cmdWriteRam (.constant 0xFF#8), []) := by decide

theorem test_decode_plain_commands :
    decode none [0x32#8] = .ok (.cmdWriteLut, []) ∧ decode none [0x37#8] = .ok (.cmdDisplayOption, []) ∧
    decode none [0x3C#8] = .ok (.cmdBorder, []) ∧ decode none [0x22#8] = .ok (.cmdUpdateCtrl, []) ∧
    decode none [0x20#8] = .ok (.cmdActivate, []) ∧ decode none [0x10#8] = .ok (.cmdDeepSleep, []) ∧
    decode (some 0x22#8) [0x22#8] = .ok (.cmdFullCtrl, []) := by decide

theorem test_decode_refuses :
    decodeFrame [] = .error .noCode ∧ decodeFrame [0x88#8] = .error (.unknownCode 0x88#8) ∧
    decodeFrame [0x12#8] = .error (.notARequest 0x12#8) ∧ decodeFrame [0x80#8, 0#8] = .error (.badOperands "INIT") ∧
    decodeFrame [0x83#8, 0#8] = .error (.trailing "request") := by decide

theorem test_table_words :
    decodeTableWord 8 0x80 = some (.init 0) ∧ decodeTableWord 8 0x83 = some .turnOn ∧
    decodeTableWord 8 0x93 = some (.blit 0 ⟨[], 0#8⟩ 0 0 0 0) ∧ decodeTableWord 8 0x45 = some (.cmdWindowY 0#16 0#16) ∧
    decodeTableWord 8 0x00 = none := by decide

/-! ### The step -/

/-- R151, R223: the first request after reset, not `init`, is refused. -/
theorem test_first_step_refuses_turnon :
    (next (State.reset.withFetchWord 8 0x83)).map (fun t => (t.res.status, t.fault, t.port))
      = some (.phaseRefused, ⟨false, true⟩, []) := by decide +kernel

/-- R109: a sequenced command; the reference's BORDER_BYTE is 0x80. -/
theorem test_first_step_runs_border :
    (next (State.reset.withFetchWord 8 0x3C)).map (fun t => (t.trace, t.seq))
      = some ([.cmd 0x3C#8, .data [0x80#8]], .idle) := by decide +kernel

/-- R116a, R225: an unknown code ends as BadRequest. -/
theorem test_unknown_code_is_bad_request :
    (next ({ State.reset with port := [[0x00#8]] })).map (fun t => (t.res.status, t.trace))
      = some (.badRequest, []) := by decide +kernel

/-- V8: the third sample is Idle, and Idle is tested before the count. -/
theorem test_v8_wait_last_sample_idle :
    (next (atWait (bounded tiny 3) 2 [.idle])).map (fun t => (t.trace, t.phase, t.res.status))
      = some ([.poll .idle], .idle, .ok) := by decide +kernel

/-- V7: no delay after the last Poll. -/
theorem test_v7_wait_times_out :
    (next (atWait (bounded tiny 3) 2 [.busy])).map (fun t => (t.trace, t.phase, t.res.status, t.fault.timeout))
      = some ([.poll .busy], .refreshing, .timeout, true) := by decide +kernel

/-! ### Operand assembly: V10, V11, V12 -/

theorem test_v10_window_x :
    ([0, 5, 7, 8, 15, 16, 151, 152, 2047, 2048, -1, -8, -9] : List Int).map windowX
      = [0x00#8, 0x00#8, 0x00#8, 0x01#8, 0x01#8, 0x02#8, 0x12#8, 0x13#8, 0xFF#8, 0x00#8, 0xFF#8, 0xFF#8, 0xFE#8] := by decide

theorem test_v11_split :
    ([0, 255, 256, 295, 296, 65535, 65536, 65537, -1, -256] : List Int).map (fun v => (halfLow (half v), halfHigh (half v)))
      = [(0x00#8, 0x00#8), (0xFF#8, 0x00#8), (0x00#8, 0x01#8), (0x27#8, 0x01#8), (0x28#8, 0x01#8), (0xFF#8, 0xFF#8),
         (0x00#8, 0x00#8), (0x01#8, 0x00#8), (0xFF#8, 0xFF#8), (0x00#8, 0xFF#8)] := by decide

theorem test_v12_cursor_x :
    ([0, 1, 19, 255, 256, 274, -1] : List Int).map lowByte
      = [0x00#8, 0x01#8, 0x13#8, 0xFF#8, 0x00#8, 0x12#8, 0xFF#8] := by decide

/-! ### Controller Protocol -/

/-- V20. -/
theorem test_v20_init_full :
    (run (.init 0) (fresh Config.reference [.idle])).map (·.trace)
      = some
        [.rstLow, .delay .rstLow, .rstHigh, .delay .rstHigh, .cmd 0x12#8, .poll .idle, .cmd 0x11#8, .data [0x03#8],
          .cmd 0x44#8, .data [0x01#8], .data [0x13#8], .cmd 0x45#8, .data [0x00#8], .data [0x00#8], .data [0x28#8],
          .data [0x01#8], .cmd 0x22#8, .data [0x01#8]] ∧
    (run (.init 0) (fresh Config.reference [.idle])).map (fun t => (t.phase, t.mode, t.win))
      = some (.idle, .fullRefresh, some ⟨1#8, 0#16, 19#8, 296#16⟩) := by
  decide +kernel

/-- V34: the first wait answers Idle, the second too, the third Busy: 187 events before it. -/
theorem test_v34_init_partial_stops :
    (run (.init 1) (fresh Config.reference [.idle, .idle, .busy])).map
        (fun t => (t.trace.length, t.trace.drop 170 |>.take 8, t.phase, t.mode))
      = some (189, [.poll .idle, .cmd 0x37#8, .data [0x00#8], .data [0x00#8], .data [0x00#8], .data [0x00#8], .data [0x00#8],
          .data [0x40#8]], .refreshing, .partialRefresh) := by decide +kernel

/-- V33 with one sample: 170 events before it, no 0x37, TIMEOUT in phase ModeConfigured. -/
theorem test_v33_waveform_timeout :
    (run (.init 1) (fresh (bounded Config.reference 1) [.idle, .busy])).map
        (fun t => (t.trace.length, t.trace.drop 169, t.phase, t.mode, t.fault))
      = some (171, [.data [0x98#8], .poll .busy], .modeConfigured, .partialRefresh, ⟨true, false⟩) := by decide +kernel

/-- V35 with one sample: the whole picture before the fault, S.CUR = (1, 0). -/
theorem test_v35_display_timeout :
    (run (.display 0) { up (bounded tiny 1) [.busy] with fbP := [(0, 0xFF#8), (1, 0xFF#8)] }).map
        (fun t => (t.trace, t.phase, t.cur, t.fault))
      = some ([.cmd 0x4E#8, .data [0x01#8], .cmd 0x4F#8, .data [0x00#8], .data [0x00#8], .cmd 0x24#8, .data [0xFF#8, 0xFF#8],
          .cmd 0x20#8, .poll .busy], .refreshing, some ⟨1#8, 0#16⟩, ⟨true, false⟩) := by decide +kernel

/-- V23, second row. -/
theorem test_v23_set_window :
    (run (.setWindow 5 10 151 295) (up tiny [])).map (fun t => (t.trace, t.win))
      = some ([.cmd 0x44#8, .data [0x00#8], .data [0x12#8], .cmd 0x45#8, .data [0x0A#8], .data [0x00#8], .data [0x27#8],
          .data [0x01#8]], some ⟨0#8, 10#16, 18#8, 295#16⟩) := by decide +kernel

/-- V24. -/
theorem test_v24_set_window_refused :
    (run (.setWindow 8 0 152 296) (fresh tiny [])).map (fun t => (t.trace, t.win, t.res.status, t.fault))
      = some ([], none, .phaseRefused, ⟨false, true⟩) := by decide +kernel

/-- V25, third row. -/
theorem test_v25_set_cursor :
    (run (.setCursor 274 (-1)) (up tiny [])).map (fun t => (t.trace, t.cur))
      = some ([.cmd 0x4E#8, .data [0x12#8], .cmd 0x4F#8, .data [0xFF#8], .data [0xFF#8]], some ⟨18#8, 65535#16⟩) := by
  decide +kernel

/-- V26, up to the Busy answer. -/
theorem test_v26_turn_on_waits :
    (run .turnOn (up tiny [.busy, .idle])).map (fun t => (t.trace, t.phase, t.answers))
      = some ([.cmd 0x20#8, .poll .busy, .delay .poll], .refreshing, [.idle]) := by decide +kernel

/-- V27. -/
theorem test_v27_display :
    (run (.display 0) { up tiny [.idle] with fbP := [(0, 0x7F#8), (1, 0xFF#8)] }).map (fun t => (t.trace, t.cur, t.phase))
      = some ([.cmd 0x4E#8, .data [0x01#8], .cmd 0x4F#8, .data [0x00#8], .data [0x00#8], .cmd 0x24#8, .data [0x7F#8, 0xFF#8],
          .cmd 0x20#8, .poll .idle], some ⟨1#8, 0#16⟩, .idle) := by decide +kernel

/-- V29, SMALL16x3. -/
theorem test_v29_display_landscape :
    (run (.displayL 1) { up small [.idle] with
        fbL := [(0, 0xA0#8), (1, 0xA1#8), (2, 0xA2#8), (3, 0xB0#8), (4, 0xB1#8), (5, 0xB2#8)] }).map
        (fun t => t.trace.drop 5)
      = some [.cmd 0x24#8, .data [0xB0#8], .data [0xA0#8], .data [0xB1#8], .data [0xA1#8], .data [0xB2#8], .data [0xA2#8],
          .cmd 0x20#8, .poll .idle] := by decide +kernel

/-- V29, REFCFG: E8 and the other listed positions. -/
theorem test_v29_source_indices :
    [0, 1, 18, 19, 20, 5604, 5623].map (landscapeIndex Config.reference) = [5328, 5032, 0, 5329, 5033, 294, 295] := by
  decide +kernel

/-- V30. -/
theorem test_v30_clear :
    (run (.clear 255) (up small [.idle])).map (fun t => (t.trace.drop 5, t.fbP, t.fbL))
      = some ([.cmd 0x24#8, .data [0xFF#8, 0xFF#8, 0xFF#8, 0xFF#8, 0xFF#8, 0xFF#8], .cmd 0x20#8, .poll .idle], [], []) := by
  decide +kernel

/-- V30, last sentence. -/
theorem test_v30_clear_256 :
    (run (.clear 256) (up small [])).map (fun t => (t.trace, t.res.status, t.fault))
      = some ([], .badRequest, ⟨false, false⟩) := by decide +kernel

/-- V31. -/
theorem test_v31_sleep :
    (run .sleep (up tiny [])).map (fun t => (t.trace, t.phase, t.mode, t.win))
      = some ([.cmd 0x10#8, .data [0x01#8]], .sleeping, .fullRefresh, some ⟨1#8, 0#16, 19#8, 296#16⟩) := by decide +kernel

/-! ### The controller commands run alone -/

/-- R100, R101, R102, R103, R104, R105. -/
theorem test_commands_first_half :
    (run .cmdSwReset (fresh tiny [.idle])).map (·.trace) = some [.cmd 0x12#8, .poll .idle] ∧
    (run .cmdDataEntry (fresh tiny [])).map (·.trace) = some [.cmd 0x11#8, .data [0x03#8]] ∧
    (run (.cmdWindowX 1#8 19#8) (fresh tiny [])).map (·.trace) = some [.cmd 0x44#8, .data [0x01#8], .data [0x13#8]] ∧
    (run (.cmdWindowY 0#16 296#16) (fresh tiny [])).map (·.trace)
      = some [.cmd 0x45#8, .data [0x00#8], .data [0x00#8], .data [0x28#8], .data [0x01#8]] ∧
    (run (.cmdCursorX 1#8) (fresh tiny [])).map (·.trace) = some [.cmd 0x4E#8, .data [0x01#8]] ∧
    (run (.cmdCursorY 300#16) (fresh tiny [])).map (·.trace) = some [.cmd 0x4F#8, .data [0x2C#8], .data [0x01#8]] := by
  decide +kernel

/-- R106, R107, R108, R109, R110, R111, R112, R113. -/
theorem test_commands_second_half :
    (run (.cmdWriteRam (.constant 0x5A#8)) (fresh tiny [])).map (·.trace)
      = some [.cmd 0x24#8, .data [0x5A#8, 0x5A#8]] ∧
    (run .cmdWriteLut (fresh tiny [.idle])).map (fun t => (t.trace.length, t.trace[1]?, t.trace[153]?))
      = some (155, some (.data [0x00#8]), some (.data [0x98#8])) ∧
    (run .cmdDisplayOption (fresh tiny [])).map (·.trace.drop 5)
      = some [.data [0x00#8], .data [0x40#8], .data [0x00#8], .data [0x00#8], .data [0x00#8], .data [0x00#8]] ∧
    (run .cmdBorder (fresh tiny [])).map (·.trace) = some [.cmd 0x3C#8, .data [0x80#8]] ∧
    (run .cmdUpdateCtrl (fresh tiny [])).map (·.trace) = some [.cmd 0x22#8, .data [0xCF#8]] ∧
    (run .cmdActivate (fresh tiny [.idle])).map (·.trace) = some [.cmd 0x20#8, .poll .idle] ∧
    (run .cmdFullCtrl (fresh tiny [])).map (·.trace) = some [.cmd 0x22#8, .data [0x01#8]] ∧
    (run .cmdDeepSleep (fresh tiny [])).map (·.trace) = some [.cmd 0x10#8, .data [0x01#8]] := by
  decide +kernel

/-! ### Frame Buffer Pair (REFCFG; only the bytes an operation meets are listed) -/

/-- A drawing state: all phases alike, so Uninitialized. -/
def drawP (m : Memory) : State := { fresh Config.reference [] with fbP := m }

/-- The same for Landscape. -/
def drawL (m : Memory) : State := { fresh Config.reference [] with fbL := m }

/-- V40c, V41. -/
theorem test_v40_set_pixel :
    (run (.setPixel 0 151 295 0) (drawP [(5623, 0xFF#8)])).map (fun t => (t.fbP, t.res.status))
      = some ([(5623, 0xFE#8)], .ok) ∧
    (run (.setPixel 1 3 10 0) (drawL [(299, 0xFF#8)])).map (fun t => (t.fbL, t.res.status)) = some ([(299, 0xFB#8)], .ok) := by
  decide +kernel

/-- V42, V43b. -/
theorem test_v42_set_pixel_outside :
    ([.setPixel 0 152 0 0, .setPixel 0 0 296 0, .setPixel 0 (-1) 0 0, .setPixel 0 0 (-1) 0, .setPixel 1 296 0 0,
        .setPixel 1 0 152 0, .setPixel 0 3 0 2] : List Instr).map
        (fun i => (run i (drawP [])).map fun t => (t.fbP, t.fbL, t.res.status))
      = List.replicate 6 (some ([], [], .oobRejected)) ++ [some ([], [], .badRequest)] := by decide +kernel

/-- V44a. -/
theorem test_v44a_fill_rect :
    (run (.fillRect 1 6 6 2 4 0) (drawL [(6, 0xFF#8), (7, 0xFF#8), (302, 0xFF#8), (303, 0xFF#8)])).map
        (fun t => (t.fbL, t.res.status))
      = some ([(6, 0x3F#8), (7, 0x3F#8), (302, 0xFC#8), (303, 0xFC#8)], .ok) := by decide +kernel

/-- V45a: only pixel (0, 0) is inside. -/
theorem test_v45a_fill_rect_clipped :
    (run (.fillRect 0 (-2) (-2) 3 3 0) (drawP [(0, 0xFF#8)])).map (fun t => (t.fbP, t.res.status))
      = some ([(0, 0x7F#8)], .oobRejected) := by decide +kernel

/-- V47, V47a. -/
theorem test_v47_fill :
    (run (.fill 0 1) (fresh tiny [])).map (·.fbP) = some [(0, 0xFF#8), (1, 0xFF#8)] ∧
    (run (.fill 1 0) (fresh tiny [])).map (·.fbL) = some [(0, 0x00#8), (1, 0x00#8)] := by decide +kernel

/-- V49: background pixels are written too. -/
theorem test_v49_blit_opaque :
    (run (.blit 0 ⟨[0#8, 1#8, 1#8, 0#8], 0#8⟩ 0 0 2 2) (drawP [(0, 0x00#8), (19, 0x00#8)])).map
        (fun t => (t.fbP, t.res.status))
      = some ([(0, 0x40#8), (19, 0x80#8)], .ok) := by decide +kernel

/-- V49a. -/
theorem test_v49a_blit_clipped :
    (run (.blit 0 ⟨[], 0#8⟩ 150 0 4 1) (drawP [(18, 0xFF#8)])).map (fun t => (t.fbP, t.res.status))
      = some ([(18, 0xFC#8)], .oobRejected) := by decide +kernel

/-! ### Text Layout Engine -/

/-- V61: `I-` at (5, 7), for scales 1, 0 and -3. -/
theorem test_v61_scaled_text :
    ([1, 0, -3] : List Int).map (fun scale =>
      (run (.stext 0 [0x49#8, 0x2D#8] 5 7 scale 0)
        (drawP ([153, 172, 191, 192, 210, 229, 248].map fun k => (k, 0xFF#8)))).map fun t => (t.fbP, t.res.status))
      = List.replicate 3 (some ([(153, 0x7F#8), (172, 0x7F#8), (191, 0x7C#8), (192, 0x0F#8), (210, 0x7F#8), (229, 0x7F#8),
          (248, 0x7F#8)], .ok)) := by decide +kernel

/-- V61b: colour 1, scale 2; off pixels leave the buffer as it was. -/
theorem test_v61b_scaled_text_background :
    (run (.stext 0 [0x2E#8] 0 0 2 1) (drawP [(191, 0x00#8), (210, 0x00#8)])).map (fun t => (t.fbP, t.res.status))
      = some ([(191, 0x0C#8), (210, 0x0C#8)], .ok) := by decide +kernel

/-- "Party 12". -/
def party : List Byte := [0x50#8, 0x61#8, 0x72#8, 0x74#8, 0x79#8, 0x20#8, 0x31#8, 0x32#8]

/-- V62, V64, V65, V66: the fit. -/
theorem test_v62_fit :
    fitText Config.reference party none = (7, [[0x50#8, 0x61#8, 0x72#8, 0x74#8, 0x79#8], [0x31#8, 0x32#8]]) ∧
    fitText Config.reference party (some 2) = (2, [party]) ∧ fitText Config.reference party (some 0) = (3, [party]) ∧
    fitText Config.reference (List.replicate 38 0x23#8) none = (3, [List.replicate 38 0x23#8]) := by decide +kernel

/-- V64, V62, V66: block tops and left edges. -/
theorem test_v64_positions :
    blockTop Config.reference .landscape 5 7 2 false = 5 ∧ blockTop Config.reference .landscape 0 7 2 true = 20 ∧
    lineLeft Config.reference 0 true 7 [0x50#8, 0x61#8, 0x72#8, 0x74#8, 0x79#8] = 8 ∧
    lineLeft Config.reference 0 true 7 [0x31#8, 0x32#8] = 92 ∧
    lineLeft Config.reference 0 true 3 (List.replicate 38 0x23#8) = -308 := by decide +kernel

/-- V68: no words: scale 19, no lines, nothing drawn. -/
theorem test_v68_autofit_blank :
    (run (.autofit 1 [0x20#8, 0x0A#8, 0x20#8] 0 0 0 none true true) (drawL [])).map (fun t => (t.res, t.fbL))
      = some (⟨.ok, 19, []⟩, []) := by decide +kernel

/-- R194, by hand as in V64: `#` without centring at (10, 5) at scale 1 is the 8 × 8 block of columns 10 to 17, rows 5 to 12. -/
theorem test_autofit_paints :
    (run (.autofit 1 [0x23#8] 10 5 0 (some 1) false false)
        (drawL ((List.range 8).map (fun k => (10 + k, 0xFF#8)) ++ (List.range 8).map fun k => (306 + k, 0xFF#8)))).map
        (fun t => (t.res, t.fbL))
      = some (⟨.ok, 1, [[0x23#8]]⟩,
        (List.range 8).map (fun k => (10 + k, 0x1F#8)) ++ (List.range 8).map fun k => (306 + k, 0xE0#8)) := by decide +kernel

/-- V71. -/
theorem test_v71_wrap :
    wrapLine [0x61#8, 0x20#8, 0x20#8, 0x62#8, 0x09#8, 0x20#8, 0x63#8] 3 = some [[0x61#8, 0x20#8, 0x62#8], [0x63#8]] ∧
    wrapLine [] 5 = some [] ∧ wrapLine [0x61#8, 0x62#8, 0x63#8] 2 = none ∧
    wrapLine [0x61#8, 0x62#8, 0x20#8, 0x63#8, 0x64#8] 5 = some [[0x61#8, 0x62#8, 0x20#8, 0x63#8, 0x64#8]] ∧
    wrapLine [0x61#8, 0x62#8, 0x20#8, 0x63#8, 0x64#8] 4 = some [[0x61#8, 0x62#8], [0x63#8, 0x64#8]] ∧
    wrapLine [0x78#8] 0 = none ∧ wrapLine [] 0 = some [] := by decide +kernel

/-- V72. -/
theorem test_v72_lines_words :
    splitLines [0x61#8, 0x0A#8, 0x0A#8, 0x62#8, 0x0A#8] = [[0x61#8], [], [0x62#8], []] ∧ splitLines [] = [[]] ∧
    splitLines [0x61#8, 0x0D#8, 0x0A#8, 0x62#8] = [[0x61#8, 0x0D#8], [0x62#8]] ∧
    trim [0x09#8, 0x68#8, 0x69#8, 0x20#8, 0x74#8, 0x0D#8] = [0x68#8, 0x69#8, 0x20#8, 0x74#8] ∧
    trim [0x20#8, 0x20#8] = [] ∧
    words [0x20#8, 0x61#8, 0x20#8, 0x20#8, 0x62#8, 0x62#8, 0x09#8, 0x63#8, 0x20#8] = [[0x61#8], [0x62#8, 0x62#8], [0x63#8]] := by
  decide +kernel

/-- V73. -/
theorem test_v73_max_scale :
    ([none, some 4, some 100, some 0, some (-2)] : List (Option Int)).map (maxScale Config.reference) = [19, 4, 19, 0, -2] ∧
    maxScale { Config.reference with txtH := 7 } none = 1 ∧ maxScale { Config.reference with txtH := 7 } (some 5) = 1 ∧
    maxScale { Config.reference with txtH := 128 } none = 16 := by decide +kernel

/-! ### Views of TRACE -/

/-- R93: a command on the pins, active-low chip-select, DC_CMD = 0. -/
theorem test_pins_of_a_command :
    eventPins Config.reference (.cmd 0x12#8) = [.dc false, .cs false, .shift 0x12#8, .cs true] := by decide +kernel

/-- R93: a data run, the discriminator at the other level, two bytes in one frame. -/
theorem test_pins_of_a_run :
    eventPins Config.reference (.data [0x01#8, 0x02#8]) = [.dc true, .cs false, .shift 0x01#8, .shift 0x02#8, .cs true] := by
  decide +kernel

/-! ### Witnesses: for every statement with hypotheses, states and operands that meet them all -/

theorem witness_DecodeReadsBackEncode :
    ((Instr.setWindow (-2 ^ 63) (2 ^ 63 - 1) 0 (-1)).wellFormed = true ∧ Instr.setWindow (-2 ^ 63) (2 ^ 63 - 1) 0 (-1) ≠ .cmdFullCtrl) ∧
    Instr.cmdFullCtrl.wellFormed = true := by decide

theorem witness_OnlyRequestCodesAreRequests :
    let s : State := { State.reset with port := [[0x12#8]] }
    s.cfg.legal = true ∧ s.seq = .idle ∧ s.port = [[0x12#8]] ∧ 0x12#8 ∉ requestCodes := by decide +kernel

theorem witness_StepRunsDecodedRequest :
    let s : State := { State.reset with port := [[0x87#8], [0x83#8]] }
    s.cfg.legal = true ∧ s.seq = .idle ∧ s.port = [0x87#8] :: [[0x83#8]] ∧ decodeFrame [0x87#8] = .ok .sleep := by decide +kernel

theorem witness_StepRunsSequencedCommandOrWaits :
    (let s := State.reset.placeSequence (busSeq State.reset .cmdFullCtrl)
     s.cfg.legal = true ∧ Instr.cmdFullCtrl.isRequest = false ∧ s.seq = .active 0 (busSeq s .cmdFullCtrl)) ∧
    (State.reset.cfg.legal = true ∧ State.reset.seq = .idle ∧ State.reset.port = []) := by decide +kernel

/-- A width that is no multiple of 8; each other constraint of R6 broken alone, and the model's on the font. -/
theorem witness_IllegalConfigurationIsRefused :
    ([{ Config.reference with wPx := 4 }, { Config.reference with wPx := 0 }, { Config.reference with hPx := 0 },
      { Config.reference with txtW := 0 }, { Config.reference with txtH := 0 }, { Config.reference with modePartial := 0 },
      { Config.reference with xOffset := 7 }, { Config.reference with fullCtrlCmd := 0x13#8 },
      { Config.reference with lut := List.replicate 152 0#8 }, { Config.reference with optNzIndex := 10 },
      { Config.reference with optNzByte := 0#8 }, { Config.reference with busyTimeout := some 0 },
      { Config.reference with txtMax := 0 }, { Config.reference with font := [] }] : List Cfg).all (fun c => !c.legal) = true ∧
    Config.reference.legal = true ∧
    Cfg.legal { Config.reference with
      lut := List.replicate 153 0#8, optNzIndex := 9, optNzByte := 1#8, busyTimeout := some 1, txtMax := 1, wPx := 8, hPx := 1,
      txtW := 1, txtH := 1 } = true := by
  decide +kernel

/-- Three clauses; BUSY_TIMEOUT = 3 after one and after two samples. -/
theorem witness_WaitTakesOneSample :
    (let s := atWait (bounded tiny 3) 2 [.idle]
     s.cfg.legal = true ∧ s.seq = .active 2 [.wait, .phase .idle, .status .ok] ∧ s.nextAnswer = .idle) ∧
    (let s := atWait (bounded tiny 3) 1 [.busy]
     (s.cfg.legal = true ∧ s.seq = .active 1 [.wait, .phase .idle, .status .ok] ∧ s.nextAnswer = .busy) ∧
       ∀ t, s.cfg.busyTimeout = some t → 1 + 1 < t) ∧
    (let s := atWait (bounded tiny 3) 2 [.busy]
     (s.cfg.legal = true ∧ s.seq = .active 2 [.wait, .phase .idle, .status .ok] ∧ s.nextAnswer = .busy) ∧
       ∃ t, s.cfg.busyTimeout = some t ∧ t ≤ 2 + 1) :=
  ⟨by decide +kernel, ⟨by decide +kernel, fun _ h => by cases h; decide⟩, by decide +kernel, 3, rfl, by decide⟩

theorem witness_WaitEndsAtIdle :
    let s := atWait (bounded tiny 3) 0 [.busy, .busy, .idle]
    (s.cfg.legal = true ∧ s.seq = .active 0 [.wait, .phase .idle, .status .ok] ∧
      s.answers = List.replicate 2 .busy ++ .idle :: []) ∧ ∀ t, s.cfg.busyTimeout = some t → 0 + 2 < t :=
  ⟨by decide +kernel, fun _ h => by cases h; decide⟩

theorem witness_WaitTimesOut :
    let s := atWait (bounded tiny 3) 0 [.busy, .busy, .busy]
    s.cfg.legal = true ∧ s.seq = .active 0 [.wait, .phase .idle, .status .ok] ∧
      s.answers = List.replicate (2 + 1) .busy ++ [] ∧ s.cfg.busyTimeout = some (0 + 2 + 1) := by decide +kernel

theorem witness_SilentControllerHangs :
    let s := atWait tiny 0 [.busy, .busy]
    s.cfg.legal = true ∧ s.seq = .active 0 [.wait, .phase .idle, .status .ok] ∧
      s.answers = List.replicate 2 .busy ++ [] ∧ s.cfg.busyTimeout = none := by decide +kernel

theorem witness_InitFullCompletes :
    let s := fresh Config.reference [.idle]
    inRange s.cfg.modeFull = true ∧ s.nextAnswer = .idle := by decide +kernel

theorem witness_InitPartialCompletes :
    let s := fresh Config.reference [.idle, .idle, .idle]
    inRange s.cfg.modePartial = true ∧ s.cfg.modePartial ≠ s.cfg.modeFull ∧ s.nextAnswer = .idle ∧
      s.consumeAnswer.nextAnswer = .idle ∧ s.consumeAnswer.consumeAnswer.nextAnswer = .idle := by decide +kernel

theorem witness_InitRejectsOtherModes :
    inRange (2 ^ 31 - 1) = true ∧ (2 ^ 31 - 1 : Int) ≠ Config.reference.modeFull ∧
      (2 ^ 31 - 1 : Int) ≠ Config.reference.modePartial := by decide +kernel

/-- The three waits, one sample allowed and two. -/
theorem witness_InitStopsAtItsWaits :
    (let s := fresh (bounded Config.reference 1) [.busy]
     (inRange 0 = true ∧ 0 = s.cfg.modeFull ∧ s.nextAnswer = .busy) ∧ ∃ T, s.cfg.busyTimeout = some T ∧ T ≤ 1) ∧
    (let s := fresh (bounded Config.reference 2) [.busy]
     (inRange 1 = true ∧ 1 = s.cfg.modePartial ∧ s.nextAnswer = .busy) ∧ ∀ T, s.cfg.busyTimeout = some T → 1 < T) ∧
    (let s := fresh (bounded Config.reference 1) [.idle, .busy]
     inRange s.cfg.modePartial = true ∧ s.cfg.modePartial ≠ s.cfg.modeFull ∧ s.nextAnswer = .idle ∧
       s.consumeAnswer.nextAnswer = .busy) ∧
    (let s := fresh (bounded Config.reference 2) [.idle, .idle, .busy]
     inRange s.cfg.modePartial = true ∧ s.cfg.modePartial ≠ s.cfg.modeFull ∧ s.nextAnswer = .idle ∧
       s.consumeAnswer.nextAnswer = .idle ∧ s.consumeAnswer.consumeAnswer.nextAnswer = .busy) :=
  ⟨⟨by decide +kernel, 1, rfl, by decide⟩, ⟨by decide +kernel, fun _ h => by cases h; decide⟩, by decide +kernel,
    by decide +kernel⟩

theorem witness_SetWindowCompletes :
    inRange (-2 ^ 31) = true ∧ inRange (2 ^ 31 - 1) = true ∧ inRange 152 = true ∧ inRange 296 = true ∧
      (up tiny []).phase = .idle := by decide

theorem witness_SetCursorCompletes : inRange 274 = true ∧ inRange (-1) = true ∧ (up tiny []).phase = .idle := by decide

theorem witness_TurnOnCompletes : (up tiny [.idle]).phase = .idle ∧ (up tiny [.idle]).nextAnswer = .idle := by decide

theorem witness_DisplayCompletes :
    ((0 : Int) = 0 ∨ (0 : Int) = 1) ∧ (up tiny [.idle]).phase = .idle ∧ (up tiny [.idle]).nextAnswer = .idle := by decide

theorem witness_DisplayLandscapeCompletes :
    ((1 : Int) = 0 ∨ (1 : Int) = 1) ∧ (up small [.idle]).phase = .idle ∧ (up small [.idle]).nextAnswer = .idle := by decide

theorem witness_ClearCompletes :
    (0 : Int) ≤ 255 ∧ (255 : Int) ≤ 255 ∧ (up small [.idle]).phase = .idle ∧ (up small [.idle]).nextAnswer = .idle := by decide

theorem witness_SleepCompletes : (up tiny []).phase = .idle := by decide

theorem witness_PhaseRefusal :
    (fresh tiny []).phase ≠ .idle ∧ accepts tiny (.setWindow 8 0 152 296) = true ∧ accepts tiny (.setCursor 0 0) = true ∧
      accepts tiny .turnOn = true ∧ accepts tiny (.display 0) = true ∧ accepts tiny (.displayL 1) = true ∧
      accepts tiny (.clear 255) = true ∧ accepts tiny .sleep = true := by decide +kernel

theorem witness_BadOperandsChangeNothing :
    (Instr.clear 256).isRequest = true ∧ accepts tiny (.clear 256) = false := by decide

/-- One sample allowed, and two; both selectors and the bytes at the ends of the range. -/
theorem witness_RefreshStopsAtItsWait :
    (let s := up (bounded tiny 1) [.busy]
     (s.phase = .idle ∧ s.nextAnswer = .busy) ∧ ∃ T, s.cfg.busyTimeout = some T ∧ T ≤ 1) ∧
    (let s := up (bounded tiny 2) [.busy]
     (s.phase = .idle ∧ s.nextAnswer = .busy) ∧ ∀ T, s.cfg.busyTimeout = some T → 1 < T) ∧
    ((0 : Int) = 0 ∨ (0 : Int) = 1) ∧ ((1 : Int) = 0 ∨ (1 : Int) = 1) ∧ ((0 : Int) ≤ 0 ∧ (0 : Int) ≤ 255) ∧
    ((0 : Int) ≤ 255 ∧ (255 : Int) ≤ 255) :=
  ⟨⟨by decide, 1, rfl, by decide⟩, ⟨by decide, fun _ h => by cases h; decide⟩, by decide⟩

theorem witness_WaitingCommandsComplete : (fresh tiny [.idle]).nextAnswer = .idle := by decide

/-- V21's boundary: a 163-byte and a 153-byte table. -/
theorem witness_WaveformTailIsNeverRead :
    (fresh tiny [.idle]).cfg.lut.take 153 = ((List.range 153).map (BitVec.ofNat 8)).take 153 ∧
    (fresh tiny [.idle]).cfg.lut.length = 163 ∧ ∃ t, exec .cmdWriteLut (fresh tiny [.idle]) = .next t :=
  ⟨by decide +kernel, by decide +kernel, _, rfl⟩

theorem witness_SetPixelCompletes :
    accepts Config.reference (.setPixel 0 151 295 0) = true ∧ inside Config.reference (bufOf 0) 151 295 = true := by
  decide +kernel

theorem witness_PixelPacking :
    State.reset.cfg.legal = true ∧ (151 < State.reset.cfg.wPx ∧ 295 < State.reset.cfg.hPx) ∧
      (295 < State.reset.cfg.hPx ∧ 151 < State.reset.cfg.wPx) := by decide +kernel

/-- One past each of the four edges (V42). -/
theorem witness_SetPixelOutsideIsDropped :
    (accepts Config.reference (.setPixel 0 152 0 0) = true ∧ (Config.reference.width (bufOf 0) : Int) ≤ 152) ∧
    (accepts Config.reference (.setPixel 0 0 296 0) = true ∧ (Config.reference.height (bufOf 0) : Int) ≤ 296) ∧
    (accepts Config.reference (.setPixel 1 (-1) 0 0) = true ∧ (-1 : Int) < 0) ∧
    (accepts Config.reference (.setPixel 1 0 (-1) 0) = true ∧ (-1 : Int) < 0) := by decide +kernel

/-- V45: part of the rectangle inside, part outside; and one wholly inside (V44). -/
theorem witness_FillRectCompletes :
    (Config.reference.legal = true ∧ accepts Config.reference (.fillRect 0 150 294 4 4 0) = true) ∧
    ¬ rectFits Config.reference (bufOf 0) 150 294 4 4 ∧ rectFits Config.reference (bufOf 0) 6 1 4 2 ∧
    (inside Config.reference (bufOf 0) 151 295 = true ∧ inRect 150 294 4 4 151 295) ∧
    (inside Config.reference (bufOf 0) 149 295 = true ∧ ¬ inRect 150 294 4 4 149 295) := by
  unfold rectFits inRect
  decide +kernel

theorem witness_FillCompletes : ((1 : Int) = 0 ∨ (1 : Int) = 1) ∧ ((0 : Int) = 0 ∨ (0 : Int) = 1) := by decide

/-- V49's source. -/
theorem witness_BlitCompletes :
    Config.reference.legal = true ∧ accepts Config.reference (.blit 0 ⟨[0#8, 1#8, 1#8], 0#8⟩ 0 0 2 2) = true ∧
    ∀ n < (2 : Int).toNat * (2 : Int).toNat,
      sourceAt ⟨[0#8, 1#8, 1#8], 0#8⟩ n = 0#8 ∨ sourceAt ⟨[0#8, 1#8, 1#8], 0#8⟩ n = 1#8 := by decide +kernel

theorem witness_BlitStopsAtABadAnswer :
    Config.reference.legal = true ∧ accepts Config.reference (.blit 0 ⟨[0#8, 1#8, 7#8], 0#8⟩ 0 0 2 2) = true ∧
    2 < (2 : Int).toNat * (2 : Int).toNat ∧
    (∀ n < 2, sourceAt ⟨[0#8, 1#8, 7#8], 0#8⟩ n = 0#8 ∨ sourceAt ⟨[0#8, 1#8, 7#8], 0#8⟩ n = 1#8) ∧
    sourceAt ⟨[0#8, 1#8, 7#8], 0#8⟩ 2 ≠ 0#8 ∧ sourceAt ⟨[0#8, 1#8, 7#8], 0#8⟩ 2 ≠ 1#8 := by decide +kernel

/-- V48. -/
theorem witness_InkPixelReadsBack :
    State.reset.cfg.legal = true ∧ ((0 : Int) = 0 ∨ (0 : Int) = 1) ∧ inRange 10 = true ∧ inRange 20 = true ∧
      inside State.reset.cfg (bufOf 0) 10 20 = true ∧ sourceAt ⟨[], 0#8⟩ 0 = 0#8 := by decide +kernel

theorem witness_DrawingFrame : ∃ t, exec (.setPixel 0 0 0 0) State.reset = .next t := ⟨_, rfl⟩

theorem witness_ProtocolFrame : ∃ t, exec .sleep (up tiny []) = .next t := ⟨_, rfl⟩

theorem witness_LandscapeTransformIsABijection : small.legal = true := by decide +kernel

/-- V50 on SMALL8x2: Landscape pixel (0, 1) and Portrait pixel (8 − 1 − 1, 0) are the only ink. -/
theorem witness_RotatedPicturesStreamAlike :
    let s : State := { up tiny [.idle] with fbP := [(0, 0xFD#8), (1, 0xFF#8)], fbL := [(0, 0xFD#8), (1, 0xFF#8)] }
    (s.cfg.legal = true ∧ s.phase = .idle ∧ s.nextAnswer = .idle) ∧ ∀ x y : Nat, x < s.cfg.hPx → y < s.cfg.wPx →
      s.getPixel .landscape x y = s.getPixel .portrait ((s.cfg.wPx : Int) - 1 - y) x := by
  intro s
  have h : ∀ x < s.cfg.hPx, ∀ y < s.cfg.wPx,
      s.getPixel .landscape x y = s.getPixel .portrait ((s.cfg.wPx : Int) - 1 - y) x := by decide +kernel
  exact ⟨by decide +kernel, fun x y hx hy => h x hx y hy⟩

/-- A text fits if every block of its raster does, tried one by one. -/
theorem textFits_of_blocks {c : Cfg} {b : Buf} {text : Line} {x y s : Int}
    (h : ∀ li < (splitLines text).length, ∀ sx < 8 * ((splitLines text).getD li []).length, ∀ sy < 8,
      c.ink (((splitLines text).getD li []).getD (sx / 8) 0#8) (sx % 8) sy = true →
        rectInside c b (x + sx * s) (y + (li * 8 + sy) * s) s s = true) : textFits c b text x y s := by
  rintro li sx sy ⟨line, hl, hx, hy, hk⟩
  have e : (splitLines text).getD li [] = line := by simp [List.getD_eq_getElem?_getD, hl]
  exact (rectFits_iff _ _ _ _ _ _).2 (h li (List.getElem?_eq_some_iff.1 hl).1 sx (e ▸ hx) sy hy (e ▸ hk))

/-- V61's text at (5, 7) fits at every scale of 1 or less; `I` with its stem in column 150 + 3 does not. -/
theorem witness_ScaledTextCompletes :
    (Config.reference.legal = true ∧ accepts Config.reference (.stext 0 [0x49#8, 0x2D#8] 5 7 (-3) 0) = true) ∧
    textFits Config.reference (bufOf 0) [0x49#8, 0x2D#8] 5 7 (max (-3) 1) ∧
    accepts Config.reference (.stext 0 [0x49#8] 150 7 1 0) = true ∧
    ¬ textFits Config.reference (bufOf 0) [0x49#8] 150 7 (max 1 1) := by
  refine ⟨by decide +kernel, textFits_of_blocks (by decide +kernel), by decide +kernel, fun h => ?_⟩
  · have := h 0 3 1 ⟨[0x49#8], rfl, by decide, by decide, by decide +kernel⟩
    unfold rectFits at this
    revert this
    decide +kernel

theorem witness_ScaleAtMostOneIsUnscaled : inRange (-3) = true ∧ (-3 : Int) ≤ 1 := by decide

/-- Both centrings (V62); and neither, with `#` at scale 1 inside the buffer and across its right edge. -/
theorem witness_AutoFitCompletes :
    (Config.reference.legal = true ∧ accepts Config.reference (.autofit 1 party 0 0 0 none true true) = true) ∧
    accepts Config.reference (.autofit 1 [0x23#8] 10 5 0 (some 1) false false) = true ∧
    accepts Config.reference (.autofit 1 [0x23#8] 290 5 0 (some 1) false false) = true ∧
    fitText Config.reference [0x23#8] (some 1) = (1, [[0x23#8]]) ∧
    textFits Config.reference (bufOf 1) [0x23#8] (lineLeft Config.reference 10 false 1 [0x23#8])
      (5 + ((0 : Nat) : Int) * 8 * (1 : Nat)) (1 : Nat) ∧
    ¬ textFits Config.reference (bufOf 1) [0x23#8] (lineLeft Config.reference 290 false 1 [0x23#8])
      (5 + ((0 : Nat) : Int) * 8 * (1 : Nat)) (1 : Nat) := by
  refine ⟨by decide +kernel, by decide +kernel, by decide +kernel, by decide +kernel, textFits_of_blocks (by decide +kernel),
    fun h => ?_⟩
  · have := h 0 7 0 ⟨[0x23#8], rfl, by decide, by decide, by decide +kernel⟩
    unfold rectFits at this
    revert this
    decide +kernel

/-- ` a` with a tab, one word between two gaps, and a text of gaps only. -/
theorem witness_FitInputs :
    ((isWhite 0x20#8 ∧ isWhite 0x0D#8) ∧ ¬ isWhite 0x61#8 ∧ ¬ isWhite 0x0A#8) ∧
    ([0x61#8] : List Byte).head? = some 0x61#8 ∧ ([0x61#8] : List Byte).getLast? = some 0x61#8 ∧
    ([0x61#8] : List Byte) ≠ [] ∧ ([0x09#8, 0x62#8] : List Byte).head? = some 0x09#8 ∧ isWhite 0x09#8 := by
  unfold isWhite
  decide

/-- Two words that fill a line exactly; two lines, the second's first word one byte too long for the first; a word too long. -/
theorem witness_WrappedLinesFit :
    wrapLine [0x61#8, 0x62#8, 0x20#8, 0x63#8, 0x64#8] 5 = some [[0x61#8, 0x62#8, 0x20#8, 0x63#8, 0x64#8]] ∧
    (wrapLine [0x61#8, 0x62#8, 0x20#8, 0x63#8, 0x64#8] 4 = some [[0x61#8, 0x62#8], [0x63#8, 0x64#8]] ∧
      (words [0x63#8, 0x64#8]).head? = some [0x63#8, 0x64#8]) ∧
    (∃ w ∈ words [0x61#8, 0x62#8, 0x63#8], 2 < w.length) := by decide +kernel

theorem witness_WrapKeepsTheWords :
    wrapLine [0x61#8, 0x20#8, 0x20#8, 0x62#8] 3 = some [[0x61#8, 0x20#8, 0x62#8]] := by decide +kernel

theorem witness_ResetMeetsInvariant : tiny.legal = true := by decide +kernel

theorem exists_next (s : State) (h : (next s).isSome = true) : ∃ t, step s = .next t := by
  unfold next at h
  cases hs : step s with
  | next t => exact ⟨t, rfl⟩
  | fault r => cases r
  | refused r => rw [hs] at h; cases h

/-- The invariant, in a state whose Portrait buffer holds a byte and which is refreshing. -/
theorem witness_StepKeepsInvariant :
    State.inv { atWait (bounded tiny 3) 2 [.busy] with fbP := [(1, 0xFF#8)] } ∧
    ∃ t, step { atWait (bounded tiny 3) 2 [.busy] with fbP := [(1, 0xFF#8)] } = .next t := by
  refine ⟨⟨by decide +kernel, ?_, ?_, ?_⟩, exists_next _ (by decide +kernel)⟩
  · unfold State.memInv
    decide +kernel
  · exact And.intro (by decide) (And.intro (by decide) (And.intro (by decide +kernel) (And.intro (by decide) (by decide))))
  · exact And.intro (by decide) rfl

/-- After an `init`: a reset pulse in TRACE, closed again. -/
theorem witness_LinesFollowTheTrace :
    State.inv { up tiny [] with trace := [.rstLow, .delay .rstLow, .rstHigh, .delay .rstHigh, .cmd 0x12#8, .poll .idle] } := by
  refine ⟨by decide +kernel, ?_, ?_, ?_⟩
  · unfold State.memInv
    decide
  · exact And.intro rfl (.inl rfl)
  · exact And.intro (by decide) trivial

/-- R271: from reset, `sleep` is refused and `setPixel` outside is clipped: two requests, two statuses; begun again without the refused
one, the end is good. -/
theorem witness_RunEndsWithOneStatusEach :
    (let s : State := { fresh tiny [] with port := [[0x87#8], encode 0x22#8 (.setPixel 0 8 0 0)] }
     s.faultFree = true ∧ s.seq = .idle ∧ s.port ≠ [] ∧ statuses 2 s = [.phaseRefused, .oobRejected] ∧
       (runs 2 s).map (fun t => (t.seq, t.port, t.faultFree)) = some (.idle, [], false)) ∧
    (let s : State := { fresh tiny [] with port := [encode 0x22#8 (.setPixel 0 8 0 0)] }
     s.faultFree = true ∧ s.seq = .idle ∧ statuses 1 s = [.oobRejected] ∧
       (runs 1 s).map (fun t => (t.seq, t.port, t.faultFree)) = some (.idle, [], true)) := by decide +kernel

/-- R271: a request that waits has no status yet; a frame that is left has none. -/
theorem test_r271_no_end_yet :
    (let s : State := { up tiny [.busy] with port := [[0x83#8], [0x87#8]] }
     statuses 1 s = [] ∧ (runs 1 s).map (fun t => (decide (t.seq = .idle), t.port)) = some (false, [[0x87#8]])) ∧
    (let s : State := { fresh tiny [] with port := [[0x87#8]] }
     statuses 0 s = [] ∧ (runs 0 s).map (·.port) = some [[0x87#8]]) := by decide +kernel

theorem witness_LegalStepAlwaysAnswers : State.reset.cfg.legal = true := by decide +kernel

theorem witness_HistoryIsKept :
    let s : State := { atWait (bounded tiny 3) 2 [.busy] with fault := ⟨false, true⟩ }
    (∃ t, step s = .next t) ∧ s.fault.seq = true := ⟨exists_next _ (by decide +kernel), rfl⟩

theorem witness_OnlyInitLeavesARefusingPhase :
    let s : State := { up tiny [] with phase := .sleeping }
    (s.phase ≠ .idle ∧ Instr.isRequest (.display 0) = true) ∧ (∀ mode, Instr.display 0 ≠ .init mode) ∧
      ∃ t, exec (.display 0) s = .next t :=
  ⟨by decide, nofun, _, rfl⟩

theorem witness_TraceIsNeverRead : ∃ t, step (atWait tiny 5 [.busy]) = .next t :=
  exists_next _ (by decide +kernel)

theorem witness_ModeAndRecordsAreNeverRead : ∃ t, step { up tiny [] with port := [[0x87#8]] } = .next t :=
  exists_next _ (by decide +kernel)

theorem witness_WindowTruncation : (0 : Int) ≤ 2047 ∧ (2047 : Int) < 2048 ∧ (windowX 2047).toNat = 255 := by decide

end Sys2Proof.Tests
end

section
/-!
PROOFS. The statements of 00_scope.md: the step that always answers (R12, R220), the configuration's constraints (R6), and the
two packings that stream alike (R11, R61, R62).
-/

namespace Sys2Proof.Machine

/-! ### The step, case by case -/

theorem step_illegal {s : State} (hl : s.cfg.legal = false) : step s = .refused .illegalConfig := by
  simp [step, hl]

theorem step_active {s : State} {n : Nat} {rest : List SeqOp} (hl : s.cfg.legal = true) (hs : s.seq = .active n rest) :
    step s = .next (runSeq n rest s) := by
  simp [step, hl, hs]

theorem step_waiting {s : State} (hl : s.cfg.legal = true) (hs : s.seq = .idle) (hp : s.port = []) : step s = .next s := by
  simp [step, hl, hs, hp]

theorem step_request {s : State} {frame : List Byte} {fs : List (List Byte)} {i : Instr} (hl : s.cfg.legal = true)
    (hs : s.seq = .idle) (hp : s.port = frame :: fs) (hd : decodeFrame frame = .ok i) : step s = exec i s.popPort := by
  simp [step, hl, hs, hp, hd]

theorem step_badFrame {s : State} {frame : List Byte} {fs : List (List Byte)} {e : DecodeError} (hl : s.cfg.legal = true)
    (hs : s.seq = .idle) (hp : s.port = frame :: fs) (hd : decodeFrame frame = .error e) :
    step s = .next s.popPort.badRequest := by
  simp [step, hl, hs, hp, hd]

/-- Settles O54: each of the step's cases is a next state, the executed request's by `exec_next`. -/
theorem legalStepAlwaysAnswers : Obligations.LegalStepAlwaysAnswers := by
  intro s hl
  cases hs : s.seq with
  | active n rest => exact ⟨_, step_active hl hs⟩
  | idle =>
    cases hp : s.port with
    | nil => exact ⟨_, step_waiting hl hs hp⟩
    | cons frame fs =>
      cases hd : decodeFrame frame with
      | error e => exact ⟨_, step_badFrame hl hs hp hd⟩
      | ok i =>
        rw [step_request hl hs hp hd]
        exact exec_next i s.popPort

/-! ### The constraints of R6 in the forms its table uses -/

theorem byte_ne_zero_iff (v : Byte) : v ≠ 0#8 ↔ 1 ≤ v.toNat := by
  rw [Nat.one_le_iff_ne_zero, Ne, BitVec.toNat_eq, BitVec.toNat_ofNat, Nat.zero_mod]

theorem ne_some_zero_iff (bound : Option Nat) : bound ≠ some 0 ↔ ∀ T, bound = some T → 0 < T := by
  cases bound with
  | none => simp
  | some n => simp [Nat.pos_iff_ne_zero]

/-- Settles O6: `Cfg.legal` decides R6's constraints, and `step` looks at it before anything else. -/
theorem illegalConfigurationIsRefused : Obligations.IllegalConfigurationIsRefused := by
  intro s
  refine ⟨?_, step_illegal⟩
  simp only [Cfg.legal, decide_eq_true_eq, Config.commandBytes, Config.lutUsed, Config.optLen, byte_ne_zero_iff,
    ne_some_zero_iff, Nat.dvd_iff_mod_eq_zero, Int.dvd_iff_emod_eq_zero, Nat.lt_succ_iff, Nat.succ_le_iff, and_assoc]
  rw [and_comm (a := s.cfg.font.length = 256)]

/-! ### The logical stream (R11) -/

/-- What a shown picture sends when the wait answers Idle, `sent` being its RAM stream (R147, R148, R149). -/
def shownEvents (c : Cfg) (sent : List Event) : List Event :=
  refPointEvents c ++ [.cmd 0x24#8] ++ sent ++ [.cmd 0x20#8, .poll .idle]

@[simp] theorem logicalStream_append (es fs : List Event) : logicalStream (es ++ fs) = logicalStream es ++ logicalStream fs :=
  List.flatMap_append

/-- Single-byte transactions are their own logical stream. -/
@[simp] theorem logicalStream_map_sendData (bs : List Byte) :
    logicalStream (bs.map sendData) = bs.map sendData := by
  induction bs with
  | nil => rfl
  | cons b bs ih => exact congrArg (sendData b :: ·) ih

/-- A run's logical stream is its bytes, one transaction each. -/
@[simp] theorem logicalStream_sendRun (bs : List Byte) : logicalStream [sendRun bs] = bs.map sendData :=
  List.append_nil _

/-- Only the RAM stream of a shown picture can hold a run. -/
theorem logicalStream_shownEvents (c : Cfg) (sent : List Event) :
    logicalStream (shownEvents c sent) = shownEvents c (logicalStream sent) := by
  simp only [shownEvents, logicalStream_append]
  rfl

/-! ### A picture sent and shown with Idle at the wait (R147 to R149) -/

@[simp] theorem halfLow_half (v : Int) : halfLow (half v) = BitVec.ofInt 8 v := by
  refine BitVec.eq_of_toNat_eq ?_
  simp only [halfLow, half, BitVec.extractLsb'_toNat, BitVec.toNat_ofInt]
  omega

@[simp] theorem halfHigh_half (v : Int) : halfHigh (half v) = BitVec.ofInt 8 (v / 256) := by
  refine BitVec.eq_of_toNat_eq ?_
  simp only [halfHigh, half, BitVec.extractLsb'_toNat, BitVec.toNat_ofInt, Nat.shiftRight_eq_div_pow]
  omega

/-- What `showSeq` does before its wait. -/
def showBefore (s : State) (src : RamSource) : List SeqOp :=
  curSeq s.cfg.curX s.cfg.curY ++ writeRamSeq s src ++ [.phase .refreshing, .emit (register 0x20#8 [])]

/-- A started picture's sequence, cut at its one wait. -/
theorem showSeq_cut (s : State) (src : RamSource) :
    showSeq s src ++ [.status .ok] = showBefore s src ++ [.wait, .phase .idle, .status .ok] := rfl

theorem showBefore_noWait (s : State) (src : RamSource) : ∀ op ∈ showBefore s src, op ≠ .wait := by
  simp [showBefore, curSeq, cursorXSeq, cursorYSeq, writeRamSeq]

theorem foldl_showBefore (s u : State) (src : RamSource) :
    (showBefore s src).foldl applyOp u = { u with
      phase := .refreshing, cur := some (cursorOf s.cfg.curX s.cfg.curY),
      trace := u.trace ++ (refPointEvents s.cfg ++ [.cmd 0x24#8] ++ ramStream s src ++ [.cmd 0x20#8]) } := by
  simp [showBefore, curSeq, cursorXSeq, cursorYSeq, writeRamSeq, register, applyOp, State.emit, refPointEvents, lowByte,
    sendCommand, sendData]

/-- The whole next state of a shown picture, whatever its stream. -/
theorem protocolOp_showSeq_idle {s : State} {i : Instr} (src : RamSource) (ha : accepts s.cfg i = true) (hp : s.phase = .idle)
    (hr : s.nextAnswer = .idle) :
    s.protocolOp i (showSeq s src) = { s.consumeAnswer with
      phase := .idle, cur := some (cursorOf s.cfg.curX s.cfg.curY),
      trace := s.trace ++ shownEvents s.cfg (ramStream s src),
      res := { s.res with status := .ok }, seq := .idle, latch := none } := by
  rw [State.protocolOp, if_pos ha, if_pos hp, State.startOp, showSeq_cut, runSeq_prefix _ _ _ (showBefore_noWait s src),
    foldl_showBefore, runSeq_wait_idle]
  case h => exact hr
  simp [runSeq, applyOp, shownEvents, State.pollWith, State.emit, State.endOperation, State.setStatus,
    State.consumeAnswer, State.nextDraws]

/-! ### The two packings of a turned picture (R61, R62, R148) -/

/-- A pixel inside the buffer, at natural coordinates. -/
theorem getPixel_of_lt (s : State) {b : Buf} {x y : Nat} (hx : x < s.cfg.width b) (hy : y < s.cfg.height b) :
    s.getPixel b x y = some ((s.readByte b (pixelByte s.cfg b x y)).getLsbD (pixelBit b x y)) := by
  rw [getPixel_inside _ _ _ _ ((inside_iff ..).2 (by omega))]
  rfl

/-- Bit `b` of the byte the landscape transform sends at position `p` is a pixel of row `p / WB`, counted along X (R62, R148). -/
theorem landscapeIndex_pixel (c : Cfg) (p : Nat) {b : Nat} (hb : b < 8) :
    pixelByte c .landscape (p / c.wb) (8 * (c.wb - 1 - p % c.wb) + b) = landscapeIndex c p ∧
      pixelBit .landscape (p / c.wb) (8 * (c.wb - 1 - p % c.wb) + b) = b := by
  constructor
  · simp only [pixelByte, landscapeIndex, Nat.mul_add_div (Nat.succ_pos 7), Nat.div_eq_of_lt hb, Nat.add_zero]
  · simp only [pixelBit, Nat.mul_add_mod, Nat.mod_eq_of_lt hb]

/-- Bit `b` of Portrait byte `p` is a pixel of row `p / WB` (R61). -/
theorem portrait_pixel (c : Cfg) (p : Nat) {b : Nat} (hb : b < 8) :
    pixelByte c .portrait (8 * (p % c.wb) + (7 - b)) (p / c.wb) = p ∧
      pixelBit .portrait (8 * (p % c.wb) + (7 - b)) (p / c.wb) = b := by
  constructor
  · have hdiv : (8 * (p % c.wb) + (7 - b)) / 8 = p % c.wb := by omega
    rw [pixelByte, hdiv, Nat.div_add_mod']
  · simp only [pixelBit, Nat.mul_add_mod]
    omega

/-- The byte the landscape transform sends at position `p` is byte `p` of the turned Portrait picture. -/
theorem readByte_landscapeIndex {s : State} (hl : s.cfg.legal = true)
    (turned : ∀ x y : Nat, x < s.cfg.hPx → y < s.cfg.wPx →
      s.getPixel .landscape x y = s.getPixel .portrait ((s.cfg.wPx : Int) - 1 - y) x)
    {p : Nat} (hp : p < s.cfg.fbLen) : s.readByte .landscape (landscapeIndex s.cfg p) = s.readByte .portrait p := by
  obtain ⟨hw, hwb, -⟩ := Cfg.legal_wPx hl
  have hrow : p / s.cfg.wb < s.cfg.hPx := Nat.div_lt_of_lt_mul hp
  have hcol : p % s.cfg.wb < s.cfg.wb := Nat.mod_lt _ hwb
  refine BitVec.eq_of_getLsbD_eq fun b hb => ?_
  have hy : 8 * (s.cfg.wb - 1 - p % s.cfg.wb) + b < s.cfg.wPx := by omega
  have hx : 8 * (p % s.cfg.wb) + (7 - b) < s.cfg.wPx := by omega
  have across : (s.cfg.wPx : Int) - 1 - (8 * (s.cfg.wb - 1 - p % s.cfg.wb) + b : Nat) = (8 * (p % s.cfg.wb) + (7 - b) : Nat) := by
    omega
  have same := turned _ _ hrow hy
  rw [across, getPixel_of_lt s (b := .landscape) hrow hy, getPixel_of_lt s (b := .portrait) hx hrow, Option.some.injEq] at same
  obtain ⟨landscapeByte, landscapeBit⟩ := landscapeIndex_pixel s.cfg p hb
  obtain ⟨portraitByte, portraitBit⟩ := portrait_pixel s.cfg p hb
  rwa [landscapeByte, landscapeBit, portraitByte, portraitBit] at same

/-- Settles O42: the bytes of the two streams agree one by one (`readByte_landscapeIndex`), and all else the operations send is the
same. -/
theorem rotatedPicturesStreamAlike : Obligations.RotatedPicturesStreamAlike := by
  intro s hl hp hr turned
  have bytes : landscapeBytes s .landscape = bufferBytes s .portrait :=
    List.map_congr_left fun p hmem => readByte_landscapeIndex hl turned (List.mem_range.1 hmem)
  have streamP : logicalStream (ramStream s (.verbatim .portrait)) = (bufferBytes s .portrait).map sendData :=
    logicalStream_sendRun _
  have streamL : logicalStream (ramStream s (.rotated .landscape)) = (bufferBytes s .portrait).map sendData := by
    rw [ramStream, logicalStream_map_sendData, bytes]
  have spelled : (bufferBytes s .portrait).map sendData =
      (List.range s.cfg.fbLen).map fun k => Event.data [s.readByte .portrait k] :=
    List.map_map
  refine ⟨_, _, shownEvents s.cfg (ramStream s (.rotated .landscape)), shownEvents s.cfg (ramStream s (.verbatim .portrait)),
    rfl, rfl, ?_, ?_, ?_, ?_⟩
  · exact congrArg State.trace (protocolOp_showSeq_idle (.rotated .landscape) rfl hp hr)
  · exact congrArg State.trace (protocolOp_showSeq_idle (.verbatim .portrait) rfl hp hr)
  · rw [logicalStream_shownEvents, logicalStream_shownEvents, streamL, streamP]
  · rw [logicalStream_shownEvents, streamP, spelled, shownEvents]

end Sys2Proof.Machine
end

section
/-!
PROOFS. The statements of 10_state.md about a step: what it runs (R34, R73), what it keeps (R22, R27, R28, R31), what holds at the
engine's reset (R41), and the invariant of the engine between steps (R20, R21, R27, R29, R34).
-/

namespace Sys2Proof.Machine

/-! ### The invariant is kept (R20, R21, R27, R29, R34) -/

/-- The part of the invariant that speaks of one buffer: canonical, and inside FB_LEN (R27, R60). -/
def Memory.fits (c : Cfg) (m : Memory) : Prop :=
  Memory.wf m ∧ Memory.within c.fbLen m

theorem State.memInv_iff (s : State) : s.memInv ↔ ∀ b, Memory.fits s.cfg (s.mem b) :=
  ⟨fun h b => match b with
    | .portrait => h.1
    | .landscape => h.2, fun h => ⟨h .portrait, h .landscape⟩⟩

/-- A sequence touches no buffer. -/
theorem Later.memInv {s t : State} (h : Later s t) (hm : s.memInv) : t.memInv := by
  simpa only [State.memInv, h.cfg, h.fbP, h.fbL] using hm

/-- One buffer replaced by one that fits. -/
theorem setMem_memInv {s : State} {b : Buf} {m : Memory} (hs : s.memInv) (hm : Memory.fits s.cfg m) : (s.setMem b m).memInv := by
  rw [State.memInv_iff] at hs ⊢
  intro b'
  rw [State.setMem_cfg]
  by_cases hb : b' = b
  · subst hb
    rwa [State.setMem_mem]
  · rw [State.setMem_mem_other _ _ _ _ hb]
    exact hs b'

/-- A sequence that is safe and leaves no reset pulse open stops where the invariant holds. -/
theorem runSeq_inv (n : Nat) {ops : List SeqOp} {s : State} (hl : s.cfg.legal = true) (hm : s.memInv) (hlatch : s.latch ≠ none)
    (hsafe : seqSafe s.phase s.mode ops = true) (htrace : releasesReset s.trace = true)
    (hops : ops.all SeqOp.releases = true) : (runSeq n ops s).inv :=
  have later := runSeq_later n ops s
  ⟨later.cfg.symm ▸ hl, later.memInv hm, runSeq_seqInv n ops s hlatch hsafe, runSeq_resetInv n ops s htrace hops⟩

/-- From rest, a phase `Idle` comes with a mode (R20, R21): a timeout leaves no operation's wait in `Idle`. -/
theorem seqInv_idle_mode {s : State} (h : s.seqInv) (hs : s.seq = .idle) (hp : s.phase = .idle) :
    restState .idle s.mode = true := by
  simp only [State.seqInv, hs, hp] at h
  obtain ⟨-, hrest | ⟨-, hwait⟩⟩ := h
  · exact hrest
  · cases hwait

/-- Outside an operation the invariant sees the configuration, the buffers, TRACE, the latch, phase, mode and the TIMEOUT flag alone. -/
theorem inv_of_idle {s t : State} (h : s.inv) (hs : s.seq = .idle) (ht : t.seq = .idle) (hm : t.memInv) (hcfg : t.cfg = s.cfg)
    (htrace : t.trace = s.trace) (hlatch : t.latch = s.latch) (hphase : t.phase = s.phase) (hmode : t.mode = s.mode)
    (hflag : t.fault.timeout = s.fault.timeout) : t.inv := by
  obtain ⟨hl, -, hseq, hreset⟩ := h
  refine ⟨hcfg ▸ hl, hm, ?_, ?_⟩
  · simpa only [State.seqInv, hs, ht, hlatch, hphase, hmode, hflag] using hseq
  · simpa only [State.resetInv, hs, ht, htrace] using hreset

/-- Every effect a request can have keeps the invariant. -/
theorem RequestEffect.inv {i : Instr} {s t : State} (effect : RequestEffect i s t) (h : s.inv) (hs : s.seq = .idle) : t.inv := by
  have ⟨hl, hm, hseq, htrace, _⟩ := h
  cases effect with
  | status st _ => exact inv_of_idle h hs hs hm rfl rfl rfl rfl rfl rfl
  | refused _ => exact inv_of_idle h hs hs hm rfl rfl rfl rfl rfl rfl
  | started ops hsafe hphase hquiet =>
    refine runSeq_inv 0 hl hm (Option.some_ne_none i) (hsafe ?_) htrace ?_
    · exact hphase.imp_left (seqInv_idle_mode hseq hs)
    · rw [List.all_append, hquiet.1]
      rfl
  | drawn b m r _ hkept =>
    have hfits : Memory.fits s.cfg m := hkept (Memory.fits s.cfg) (fun _ _ _ _ => putPixel_mem hl)
      (fun v => ⟨Memory.uniform_wf _ v, Memory.uniform_within _ v⟩) ((State.memInv_iff s).1 hm b)
    refine inv_of_idle h hs ?_ (setMem_memInv hm hfits) ?_ ?_ ?_ ?_ ?_ ?_ <;> simp [hs]

/-- Settles O53: an operation in progress by `runSeq_inv`, a request by `RequestEffect.inv`; a bad frame writes RES.STATUS alone. -/
theorem stepKeepsInvariant : Obligations.StepKeepsInvariant := by
  intro s t h hstep
  have ⟨hl, hm, hseq, hreset⟩ := h
  obtain ⟨-, ⟨n, rest, hs, rfl⟩ | ⟨-, -, rfl⟩ | ⟨_, _, i, hs, -, hd, hexec⟩ | ⟨_, _, _, hs, -, -, rfl⟩⟩ := step_cases hstep
  · simp only [State.seqInv, hs] at hseq
    simp only [State.resetInv, hs] at hreset
    obtain ⟨hlatch, -, -, -, hsafe⟩ := hseq
    exact runSeq_inv n hl hm hlatch hsafe hreset.1 hreset.2
  · exact h
  · have hpop : s.popPort.inv := inv_of_idle h hs hs hm rfl rfl rfl rfl rfl rfl
    exact (exec_request (decodeFrame_isRequest hd) hexec).inv hpop hs
  · exact inv_of_idle h hs hs hm rfl rfl rfl rfl rfl rfl

/-! ### The engine's reset (R41, R250) -/

theorem reference_legal : Config.reference.legal = true := by
  simp [Cfg.legal, Config.reference, Config.commandBytes, Config.lutUsed, Config.optLen]

/-- Settles O52: nothing is written, emitted or in progress after reset, and the reference configuration is legal. -/
theorem resetMeetsInvariant : Obligations.ResetMeetsInvariant := by
  have empty (c : Cfg) : Memory.fits c [] := ⟨List.Pairwise.nil, fun _ h => nomatch h⟩
  have reset (c : Cfg) (hl : c.legal = true) : (State.resetWith c).inv :=
    ⟨hl, ⟨empty c, empty c⟩, ⟨rfl, .inl rfl⟩, ⟨rfl, trivial⟩⟩
  exact ⟨reset, reset _ reference_legal⟩

/-- Settles O51: the values are those `State.resetWith` writes; with no event yet, each line has the level it has when deasserted. -/
theorem resetValues : Obligations.ResetValues := by
  intro c
  have cs : (State.resetWith c).csAsserted = false := Bool.not_beq_self c.csActive
  have rst : (State.resetWith c).rstAsserted = false := Bool.not_beq_self c.rstActive
  exact ⟨rfl, rfl, rfl, rfl, rfl, rfl, rfl, rfl, rfl, cs, rst, rfl⟩

/-! ### What a step runs (R34, R73) -/

/-- A bus command is its sequence, run (R100 to R113). -/
theorem exec_bus {i : Instr} (h : i.isRequest = false) (s : State) : exec i s = .next (runSeq 0 (busSeq s i) s) := by
  cases i <;> cases h <;> rfl

/-- Settles O4: the first frame leaves the port, and its request is executed (`step_request`). -/
theorem stepRunsDecodedRequest : Obligations.StepRunsDecodedRequest := by
  intro s frame fs i hl hs hp hd
  rw [step_request hl hs hp hd, State.popPort, hp, List.tail_cons]

/-- Settles O5: a step runs the sequence SEQ stands at, and a bus command is that sequence (`exec_bus`). -/
theorem stepRunsSequencedCommandOrWaits : Obligations.StepRunsSequencedCommandOrWaits :=
  ⟨fun s _ hl hbus hs => (step_active hl hs).trans (exec_bus hbus s).symm, fun _ => step_waiting⟩

/-! ### What a step keeps (R22, R27, R28, R31) -/

theorem setStatus_later (s : State) (st : Status) : Later s (s.setStatus st) :=
  applyOp_later s (.status st)

theorem phaseRefused_later (s : State) : Later s s.phaseRefused := by
  constructor <;> simp

theorem startOp_later (s : State) (i : Instr) (ops : List SeqOp) : Later s (s.startOp i ops) :=
  have latched : Later s { s with latch := some i } := ⟨rfl, rfl, rfl, rfl, rfl, rfl, List.prefix_refl _, id, id⟩
  latched.trans (runSeq_later 0 _ _)

theorem protocolOp_later (s : State) (i : Instr) (ops : List SeqOp) : Later s (s.protocolOp i ops) := by
  unfold State.protocolOp
  split
  · split
    · exact startOp_later s i ops
    · exact phaseRefused_later s
  · exact setStatus_later s .badRequest

theorem execInit_later {mode : Int} {s t : State} (h : execInit mode s = .next t) : Later s t := by
  cases h
  split
  · split
    · exact startOp_later s _ _
    · exact setStatus_later s .unsupportedMode
  · exact setStatus_later s .badRequest

/-- Settles O40: a bus command is a sequence, a protocol request other than `init` is `protocolOp`; neither touches a buffer, and of RES
only RES.STATUS. -/
theorem protocolFrame : Obligations.ProtocolFrame := by
  intro s t i hi h
  have later : Later s t := by
    rcases hi with hbus | ⟨mode, rfl⟩ | ⟨xs, ys, xe, ye, rfl⟩ | ⟨x, y, rfl⟩ | rfl | ⟨b, rfl⟩ | ⟨b, rfl⟩ | ⟨v, rfl⟩ | rfl
    case inl =>
      rw [exec_bus hbus] at h
      cases h
      exact runSeq_later ..
    case inr.inl => exact execInit_later h
    all_goals
      cases h
      exact protocolOp_later ..
  exact ⟨later.fbP, later.fbL, later.scale, later.lines, later.cfg, later.port⟩

/-- What no step undoes: the configuration, the events of TRACE, the flags of S.FAULT that are set (R22, R28, R31). -/
def keepsHistory (s t : State) : Prop :=
  t.cfg = s.cfg ∧ s.trace <+: t.trace ∧
    (s.fault.timeout = true → t.fault.timeout = true) ∧ (s.fault.seq = true → t.fault.seq = true)

theorem Later.keepsHistory {s t : State} (h : Later s t) : keepsHistory s t :=
  ⟨h.cfg, h.trace, h.timeout, h.seqFlag⟩

theorem RequestEffect.keepsHistory {i : Instr} {s t : State} (effect : RequestEffect i s t) : keepsHistory s t := by
  cases effect with
  | status st _ => exact (setStatus_later s st).keepsHistory
  | refused _ => exact (phaseRefused_later s).keepsHistory
  | started ops _ _ _ => exact (startOp_later s i ops).keepsHistory
  | drawn b m r _ _ => simp [Machine.keepsHistory]

/-- Settles O55: a sequence by `runSeq_later`, a request by its effect; popping the port and a bad frame's status touch neither
configuration, TRACE nor S.FAULT. -/
theorem historyIsKept : Obligations.HistoryIsKept := by
  intro s t hstep
  obtain ⟨-, ⟨n, rest, -, rfl⟩ | ⟨-, -, rfl⟩ | ⟨_, _, i, -, -, hd, hexec⟩ | ⟨_, _, _, -, -, -, rfl⟩⟩ := step_cases hstep
  · exact (runSeq_later n rest s).keepsHistory
  · exact (Later.refl t).keepsHistory
  · exact (exec_request (decodeFrame_isRequest hd) hexec).keepsHistory
  · exact (setStatus_later s.popPort .badRequest).keepsHistory

end Sys2Proof.Machine
end

section
/-!
PROOFS. The state no step reads: S.MODE, S.WIN, S.CUR and TRACE are written only (R21, R23, R24, R28). The key fact, `step_writeOnly`: a
step does to these four fields a list of items that is the same whatever they hold.
-/

namespace Sys2Proof.Machine

/-- The four fields that are written only. -/
structure Records where
  mode : Mode
  win : Option Window
  cur : Option Cursor
  trace : List Event

def State.records (s : State) : Records :=
  ⟨s.mode, s.win, s.cur, s.trace⟩

/-- `s` with other records. -/
def State.withRecords (s : State) (u : Records) : State :=
  { s with mode := u.mode, win := u.win, cur := u.cur, trace := u.trace }

@[simp] theorem State.withRecords_records (s : State) : s.withRecords s.records = s := rfl

@[simp] theorem State.records_withRecords (s : State) (u : Records) : (s.withRecords u).records = u := rfl

/-- What an item of a sequence does to the records. -/
def Records.apply (u : Records) : SeqOp → Records
  | .emit es => { u with trace := u.trace ++ es }
  | .wait => u
  | .phase _ => u
  | .mode m => { u with mode := m }
  | .forget => { u with win := none, cur := none }
  | .win w => { u with win := some w }
  | .cur c => { u with cur := some c }
  | .status _ => u

theorem applyOp_withRecords (s : State) (u : Records) (op : SeqOp) :
    applyOp (s.withRecords u) op = (applyOp s op).withRecords (u.apply op) := by
  cases op <;> rfl

/-! ### The records of two states under the same items -/

/-- A longer past stays a longer past (R28). -/
theorem foldl_apply_past (past : List Event) (items : List SeqOp) (u : Records) :
    items.foldl Records.apply { u with trace := past ++ u.trace } =
      { items.foldl Records.apply u with trace := past ++ (items.foldl Records.apply u).trace } := by
  induction items generalizing u with
  | nil => rfl
  | cons op items ih =>
    have item : Records.apply { u with trace := past ++ u.trace } op =
        { u.apply op with trace := past ++ (u.apply op).trace } := by
      cases op <;> simp [Records.apply]
    rw [List.foldl_cons, List.foldl_cons, item, ih]

/-- TRACE grows by the same events whatever mode, window and cursor are recorded. -/
theorem foldl_apply_trace {items : List SeqOp} {u v : Records} (h : u.trace = v.trace) :
    (items.foldl Records.apply u).trace = (items.foldl Records.apply v).trace := by
  induction items generalizing u v with
  | nil => exact h
  | cons op items ih => exact ih (by cases op <;> simp [Records.apply, h])

/-! ### Operations that only write the records -/

/-- `f` does to the records a list of items that does not depend on them, and all else it does does not depend on them either. -/
def WriteOnly (f : State → State) : Prop :=
  ∀ s, ∃ items : List SeqOp, ∀ u, f (s.withRecords u) = (f s).withRecords (items.foldl Records.apply u)

/-- An operation that leaves the records as they are. -/
theorem WriteOnly.untouched {f : State → State} (h : ∀ s u, f (s.withRecords u) = (f s).withRecords u) : WriteOnly f :=
  fun s => ⟨[], h s⟩

/-- A check that does not look at the records. -/
theorem WriteOnly.guard {p : State → Prop} [DecidablePred p] {f g : State → State} (hp : ∀ s u, p (s.withRecords u) ↔ p s)
    (hf : WriteOnly f) (hg : WriteOnly g) : WriteOnly fun s => if p s then f s else g s := by
  intro s
  by_cases h : p s
  · obtain ⟨items, hi⟩ := hf s
    exact ⟨items, fun u => by dsimp only; rw [if_pos h, if_pos ((hp s u).2 h), hi]⟩
  · obtain ⟨items, hi⟩ := hg s
    exact ⟨items, fun u => by dsimp only; rw [if_neg h, if_neg (mt (hp s u).1 h), hi]⟩

/-- The sequencer: items that are no wait are done, a wait's samples and delays are emitted (R34, R134). -/
theorem runSeq_writeOnly (n : Nat) (ops : List SeqOp) : WriteOnly (runSeq n ops) := by
  induction ops generalizing n with
  | nil => exact .untouched fun _ _ => rfl
  | cons op ops ih =>
    intro s
    by_cases hw : op = .wait
    · subst hw
      cases hr : s.nextAnswer with
      | idle =>
        obtain ⟨items, hi⟩ := ih 0 (s.pollWith .idle)
        refine ⟨.emit [.poll .idle] :: items, fun u => ?_⟩
        rw [runSeq_wait_idle _ _ _ hr, runSeq_wait_idle _ _ (s.withRecords u) hr, List.foldl_cons, ← hi]
        rfl
      | busy =>
        cases ht : timedOut s.cfg (n + 1) with
        | true =>
          refine ⟨[.emit [.poll .busy]], fun u => ?_⟩
          rw [runSeq_wait_timeout _ _ _ hr ht, runSeq_wait_timeout _ _ (s.withRecords u) hr ht]
          rfl
        | false =>
          refine ⟨[.emit [.poll .busy], .emit [.delay .poll]], fun u => ?_⟩
          rw [runSeq_wait_busy _ _ _ hr ht, runSeq_wait_busy _ _ (s.withRecords u) hr ht]
          rfl
    · obtain ⟨items, hi⟩ := ih 0 (applyOp s op)
      refine ⟨op :: items, fun u => ?_⟩
      rw [runSeq_item _ _ _ _ hw, runSeq_item _ _ _ _ hw, applyOp_withRecords, List.foldl_cons, hi]

/-- A started operation whose sequence does not depend on the records. -/
theorem startOp_writeOnly (i : Instr) (ops : State → List SeqOp) (h : ∀ s u, ops (s.withRecords u) = ops s) :
    WriteOnly fun s => s.startOp i (ops s) := by
  intro s
  obtain ⟨items, hi⟩ := runSeq_writeOnly 0 (ops s ++ [.status .ok]) { s with latch := some i }
  refine ⟨items, fun u => ?_⟩
  dsimp only
  rw [h]
  exact hi u

theorem protocolOp_writeOnly (i : Instr) (ops : State → List SeqOp) (h : ∀ s u, ops (s.withRecords u) = ops s) :
    WriteOnly fun s => s.protocolOp i (ops s) :=
  .guard (fun _ _ => Iff.rfl)
    (.guard (fun _ _ => Iff.rfl) (startOp_writeOnly i ops h) (.untouched fun _ _ => rfl)) (.untouched fun _ _ => rfl)

/-! ### The buffers beside the records -/

@[simp] theorem mem_withRecords (s : State) (u : Records) (b : Buf) : (s.withRecords u).mem b = s.mem b := by
  cases b <;> rfl

@[simp] theorem setMem_withRecords (s : State) (u : Records) (b : Buf) (m : Memory) :
    (s.withRecords u).setMem b m = (s.setMem b m).withRecords u := by
  cases b <;> rfl

theorem readByte_withRecords (s : State) (u : Records) (b : Buf) : (s.withRecords u).readByte b = s.readByte b := by
  funext k
  rw [State.readByte, mem_withRecords, State.readByte]

/-- The stream of a picture is read from the configuration and the buffers (R106). -/
theorem writeRamSeq_withRecords (s : State) (u : Records) (src : RamSource) :
    writeRamSeq (s.withRecords u) src = writeRamSeq s src := by
  cases src with
  | verbatim b => rw [writeRamSeq, ramStream, bufferBytes, readByte_withRecords]; rfl
  | rotated b => rw [writeRamSeq, ramStream, landscapeBytes, readByte_withRecords]; rfl
  | constant v => rfl

theorem busSeq_withRecords (i : Instr) (s : State) (u : Records) : busSeq (s.withRecords u) i = busSeq s i := by
  cases i with
  | cmdWriteRam src => exact writeRamSeq_withRecords s u src
  | _ => rfl

theorem showSeq_withRecords (src : RamSource) (s : State) (u : Records) : showSeq (s.withRecords u) src = showSeq s src := by
  rw [showSeq, writeRamSeq_withRecords]
  rfl

theorem canvas_withRecords (s : State) (u : Records) (b : Buf) : (s.withRecords u).canvas b = s.canvas b := by
  rw [State.canvas, mem_withRecords, State.canvas]

theorem drawn_withRecords (s : State) (u : Records) (b : Buf) (v : Canvas) :
    (s.withRecords u).drawn b v = (s.drawn b v).withRecords u := by
  rw [State.drawn, setMem_withRecords]
  rfl

/-- A drawing operation: its check and its picture come from the configuration and one buffer. -/
theorem draw_writeOnly (i : Instr) (b : Buf) (picture : Cfg → Canvas → Canvas) :
    WriteOnly fun s => if accepts s.cfg i then s.drawn b (picture s.cfg (s.canvas b)) else s.badRequest := by
  refine .guard (fun _ _ => Iff.rfl) (.untouched fun s u => ?_) (.untouched fun _ _ => rfl)
  rw [canvas_withRecords, drawn_withRecords]
  rfl

/-! ### Every instruction, every step -/

theorem execInit_writeOnly (mode : Int) : ∃ f, (∀ s, execInit mode s = .next (f s)) ∧ WriteOnly f := by
  refine ⟨_, fun _ => rfl, .guard (fun _ _ => Iff.rfl) (fun s => ?_) (.untouched fun _ _ => rfl)⟩
  cases h : initSeq s.cfg mode with
  | none =>
    refine ⟨[], fun u => ?_⟩
    have hu : initSeq (s.withRecords u).cfg mode = none := h
    simp only [hu]
    rfl
  | some ops =>
    obtain ⟨items, hi⟩ := startOp_writeOnly (.init mode) (fun _ => ops) (fun _ _ => rfl) s
    refine ⟨items, fun u => ?_⟩
    have hu : initSeq (s.withRecords u).cfg mode = some ops := h
    simp only [hu]
    exact hi u

theorem execBlit_writeOnly (b : Int) (src : PixelSource) (x y w h : Int) :
    ∃ f, (∀ s, execBlit b src x y w h s = .next (f s)) ∧ WriteOnly f := by
  refine ⟨_, fun _ => rfl, .guard (fun _ _ => Iff.rfl) ?_ (.untouched fun _ _ => rfl)⟩
  cases firstBad src (w.toNat * h.toNat) with
  | none =>
    refine .untouched fun s u => ?_
    dsimp only
    rw [canvas_withRecords, drawn_withRecords]
    rfl
  | some limit =>
    refine .untouched fun s u => ?_
    dsimp only
    rw [canvas_withRecords, setMem_withRecords]
    rfl

theorem execAutofit_writeOnly (b : Int) (text : Line) (x y color : Int) (cap : Option Int) (center centerVertical : Bool) :
    ∃ f, (∀ s, execAutofit b text x y color cap center centerVertical s = .next (f s)) ∧ WriteOnly f := by
  refine ⟨_, fun _ => rfl, .guard (fun _ _ => Iff.rfl) (.untouched fun s u => ?_) (.untouched fun _ _ => rfl)⟩
  dsimp only
  rw [canvas_withRecords, ← drawn_withRecords]
  rfl

/-- Every instruction answers a next state and only writes the records: its checks, sequence and picture come from elsewhere. -/
theorem exec_writeOnly (i : Instr) : ∃ f, (∀ s, exec i s = .next (f s)) ∧ WriteOnly f := by
  cases hr : i.isRequest with
  | false =>
    refine ⟨fun s => runSeq 0 (busSeq s i) s, exec_bus hr, fun s => ?_⟩
    simpa only [busSeq_withRecords] using runSeq_writeOnly 0 (busSeq s i) s
  | true =>
    cases i with
    | init mode => exact execInit_writeOnly mode
    | setWindow xs ys xe ye => exact ⟨_, fun _ => rfl, protocolOp_writeOnly _ _ fun _ _ => rfl⟩
    | setCursor x y => exact ⟨_, fun _ => rfl, protocolOp_writeOnly _ _ fun _ _ => rfl⟩
    | turnOn => exact ⟨_, fun _ => rfl, protocolOp_writeOnly _ _ fun _ _ => rfl⟩
    | display b => exact ⟨_, fun _ => rfl, protocolOp_writeOnly _ _ (showSeq_withRecords _)⟩
    | displayL b => exact ⟨_, fun _ => rfl, protocolOp_writeOnly _ _ (showSeq_withRecords _)⟩
    | clear v => exact ⟨_, fun _ => rfl, protocolOp_writeOnly _ _ (showSeq_withRecords _)⟩
    | sleep => exact ⟨_, fun _ => rfl, protocolOp_writeOnly _ _ fun _ _ => rfl⟩
    | setPixel b x y color => exact ⟨_, fun _ => rfl, draw_writeOnly _ _ fun c => putPixel c _ x y _⟩
    | fillRect b x y w h color => exact ⟨_, fun _ => rfl, draw_writeOnly _ _ fun c => rect c _ x y w h _⟩
    | fill b color => exact ⟨_, fun _ => rfl, draw_writeOnly _ _ fun c _ => ⟨Memory.uniform c.fbLen _, true⟩⟩
    | blit b src x y w h => exact execBlit_writeOnly b src x y w h
    | stext b text x y scale color =>
      exact ⟨_, fun _ => rfl, draw_writeOnly _ _ fun c => stb c _ text x y scale _⟩
    | autofit b text x y color cap center cv => exact execAutofit_writeOnly b text x y color cap center cv
    | _ => cases hr

/-- A step does a list of items to the records; which items, and all else it does, does not depend on them. -/
theorem step_writeOnly {s t : State} (h : step s = .next t) :
    ∃ items : List SeqOp, ∀ u, step (s.withRecords u) = .next (t.withRecords (items.foldl Records.apply u)) := by
  obtain ⟨hl, ⟨n, rest, hs, rfl⟩ | ⟨hs, hp, rfl⟩ | ⟨_, _, i, hs, hp, hd, hexec⟩ | ⟨_, _, _, hs, hp, hd, rfl⟩⟩ :=
    step_cases h
  · obtain ⟨items, hi⟩ := runSeq_writeOnly n rest s
    exact ⟨items, fun u => (step_active (s := s.withRecords u) hl hs).trans (congrArg _ (hi u))⟩
  · exact ⟨[], fun u => step_waiting (s := t.withRecords u) hl hs hp⟩
  · obtain ⟨f, hf, hw⟩ := exec_writeOnly i
    obtain ⟨items, hi⟩ := hw s.popPort
    rw [hf] at hexec
    cases hexec
    refine ⟨items, fun u => ?_⟩
    rw [← hi, ← hf]
    exact step_request (s := s.withRecords u) hl hs hp hd
  · exact ⟨[], fun u => step_badFrame (s := s.withRecords u) hl hs hp hd⟩

/-- The records of the next state are those items done to the records before. -/
theorem step_items_records {s t : State} {items : List SeqOp} (h : step s = .next t)
    (hi : ∀ u, step (s.withRecords u) = .next (t.withRecords (items.foldl Records.apply u))) :
    t.records = items.foldl Records.apply s.records := by
  have same := hi s.records
  rw [State.withRecords_records, h, Host.Outcome.next.injEq] at same
  exact congrArg State.records same

/-- Settles O57: the step's items append to a longer past what they append to TRACE (`foldl_apply_past`). -/
theorem traceIsNeverRead : Obligations.TraceIsNeverRead := by
  intro s t past h
  obtain ⟨items, hi⟩ := step_writeOnly h
  have longer := hi { s.records with trace := past ++ s.records.trace }
  rw [foldl_apply_past, ← step_items_records h hi] at longer
  exact longer

/-- Settles O58: whatever mode, window and cursor are recorded, the step's items append the same to TRACE (`foldl_apply_trace`). -/
theorem modeAndRecordsAreNeverRead : Obligations.ModeAndRecordsAreNeverRead := by
  intro s t m w c h
  obtain ⟨items, hi⟩ := step_writeOnly h
  have other := hi ⟨m, w, c, s.trace⟩
  have before : Records.trace ⟨m, w, c, s.trace⟩ = s.records.trace := rfl
  have after : (items.foldl Records.apply ⟨m, w, c, s.trace⟩).trace = t.trace :=
    (foldl_apply_trace before).trans (congrArg Records.trace (step_items_records h hi)).symm
  rw [State.withRecords, State.withRecords, after] at other
  exact ⟨_, _, _, other⟩

end Sys2Proof.Machine
end

section
/-!
PROOFS. The statements of 20_memory.md: where a pixel lies (R61, R62, R63), a pixel write outside its buffer (R65), and that a drawing
request leaves the other buffer and all control state alone (R66).
-/

namespace Sys2Proof.Machine

/-! ### Where a pixel lies -/

/-- Settles O31: the position of a pixel inside (`getPixel_of_lt`), read for each of the two buffers. -/
theorem pixelPacking : Obligations.PixelPacking := by
  intro s x y _
  constructor
  · intro hx hy
    exact getPixel_of_lt s (b := .portrait) hx hy
  · intro hx hy
    exact getPixel_of_lt s (b := .landscape) hx hy

/-! ### A pixel write outside its buffer -/

/-- An accepted `setPixel` writes its one pixel into the selected buffer (R170). -/
theorem exec_setPixel_of_accepts {s : State} {b x y color : Int} (h : accepts s.cfg (.setPixel b x y color) = true) :
    exec (.setPixel b x y color) s =
      .next (s.drawn (bufOf b) (putPixel s.cfg (bufOf b) x y (colorBit color) (s.canvas (bufOf b)))) :=
  congrArg Host.Outcome.next (if_pos h)

/-- Drawing nothing, with a pixel left out, writes RES.STATUS alone (R224). -/
theorem drawn_canvas_rejected (s : State) (b : Buf) :
    s.drawn b { s.canvas b with allIn := false } = s.setStatus .oobRejected := by
  rw [State.drawn, State.canvas, State.setMem_self]
  rfl

/-- Settles O32: each of the four ways to lie outside makes `putPixel` a rejected write (`putPixel_outside`). -/
theorem setPixelOutsideIsDropped : Obligations.SetPixelOutsideIsDropped := by
  intro s b x y color haccepts hout
  have outside : inside s.cfg (bufOf b) x y = false := by
    rw [Bool.eq_false_iff, Ne, inside_iff]
    omega
  rw [exec_setPixel_of_accepts haccepts, putPixel_outside outside, drawn_canvas_rejected]
  rfl

/-! ### What a drawing request leaves alone -/

/-- From `s` to `t` at most buffer `b` and the result registers changed. -/
def DrawsOnly (b : Buf) (s t : State) : Prop :=
  ∃ m r, t = { s.setMem b m with res := r }

/-- The frame, with the new buffer and results read from the state after. -/
theorem DrawsOnly.frame {b : Buf} {s t : State} (h : DrawsOnly b s t) : t = { s.setMem b (t.mem b) with res := t.res } := by
  obtain ⟨m, r, rfl⟩ := h
  cases b <;> rfl

/-- A write of RES alone leaves every buffer as it was. -/
theorem drawsOnly_res (b : Buf) (s : State) (r : Results) : DrawsOnly b s { s with res := r } :=
  ⟨s.mem b, r, by rw [State.setMem_self]⟩

theorem drawsOnly_badRequest (b : Buf) (s : State) : DrawsOnly b s s.badRequest :=
  drawsOnly_res b s _

theorem drawsOnly_drawn (b : Buf) (s : State) (v : Canvas) : DrawsOnly b s (s.drawn b v) :=
  ⟨v.mem, _, rfl⟩

/-- `autoFitText` records its fit in RES before it draws (R194). -/
theorem drawsOnly_setFit_drawn (b : Buf) (s : State) (fit : Nat × List Line) (v : Canvas) :
    DrawsOnly b s ((s.setFit fit).drawn b v) := by
  rw [State.drawn, State.setFit_setMem]
  exact ⟨v.mem, _, rfl⟩

/-- A `blit` that meets a bad answer of its source keeps the pixels drawn before it (R225). -/
theorem drawsOnly_setMem_badRequest (b : Buf) (s : State) (m : Memory) : DrawsOnly b s (s.setMem b m).badRequest :=
  ⟨m, _, rfl⟩

/-- A request that is refused for its operands, or else draws. -/
theorem drawsOnly_checked {b : Buf} {s t : State} (accepted : Bool) (h : DrawsOnly b s t) :
    DrawsOnly b s (if accepted then t else s.badRequest) := by
  cases accepted with
  | true => exact h
  | false => exact drawsOnly_badRequest b s

theorem execBlit_drawsOnly {b : Int} {src : PixelSource} {x y w h : Int} {s t : State}
    (hexec : exec (.blit b src x y w h) s = .next t) : DrawsOnly (bufOf b) s t := by
  cases hexec
  refine drawsOnly_checked _ ?_
  cases firstBad src (w.toNat * h.toNat) with
  | some limit => exact drawsOnly_setMem_badRequest _ _ _
  | none => exact drawsOnly_drawn _ _ _

/-- Settles O39: each of the six requests is refused, or changes its own buffer and RES alone (`DrawsOnly`). -/
theorem drawingFrame : Obligations.DrawingFrame := by
  intro s t i b hdraw hexec
  refine DrawsOnly.frame ?_
  obtain ⟨x, y, color, rfl⟩ | ⟨x, y, w, h, color, rfl⟩ | ⟨color, rfl⟩ | ⟨src, x, y, w, h, rfl⟩ |
    ⟨text, x, y, scale, color, rfl⟩ | ⟨text, x, y, color, cap, center, cv, rfl⟩ := hdraw
  · cases hexec; exact drawsOnly_checked _ (drawsOnly_drawn _ _ _)
  · cases hexec; exact drawsOnly_checked _ (drawsOnly_drawn _ _ _)
  · cases hexec; exact drawsOnly_checked _ (drawsOnly_drawn _ _ _)
  · exact execBlit_drawsOnly hexec
  · cases hexec; exact drawsOnly_checked _ (drawsOnly_drawn _ _ _)
  · cases hexec; exact drawsOnly_checked _ (drawsOnly_setFit_drawn _ _ _ _)

end Sys2Proof.Machine
end

section
/-!
PROOFS. The statements of 30_encoding.md about the byte form: every operand form is read back (log entry 7), so every instruction is
(R114, R100 to R113), and a byte outside R114's codes begins no request (R116a, R136).
-/

namespace Sys2Proof

/-! ### Each operand form is read back, whatever follows it -/

/-- The bytes of a word, the last on top, are the word. -/
theorem append_bytes (w : BitVec 64) :
    w.extractLsb' 56 8 ++ w.extractLsb' 48 8 ++ w.extractLsb' 40 8 ++ w.extractLsb' 32 8 ++ w.extractLsb' 24 8 ++
      w.extractLsb' 16 8 ++ w.extractLsb' 8 8 ++ w.extractLsb' 0 8 = w := by
  iterate 7 rw [BitVec.extractLsb'_append_extractLsb'_eq_extractLsb' (by decide)]
  exact BitVec.extractLsb'_eq_self

theorem fitsField_iff (v : Int) : fitsField v = true ↔ -2 ^ 63 ≤ v ∧ v < 2 ^ 63 := by
  simp [fitsField]

@[simp] theorem takeInt_encodeInt {v : Int} (h : fitsField v = true) (rest : List Byte) :
    takeInt (encodeInt v ++ rest) = some (v, rest) := by
  obtain ⟨lower, upper⟩ := (fitsField_iff v).1 h
  have word : takeInt (encodeInt v ++ rest) = some ((BitVec.ofInt 64 v).toInt, rest) :=
    congrArg (fun w : BitVec 64 => some (w.toInt, rest)) (append_bytes (BitVec.ofInt 64 v))
  rw [word, BitVec.toInt_ofInt_eq_self (by decide) lower upper]

@[simp] theorem takeText_encodeText (text rest : List Byte) : takeText (encodeText text ++ rest) = some (text, rest) := by
  induction text with
  | nil => cases rest <;> simp [encodeText, takeText]
  | cons b text ih => simp [encodeText, takeText, ih]

@[simp] theorem takeByte_cons (b : Byte) (rest : List Byte) : takeByte (b :: rest) = some (b, rest) := rfl

@[simp] theorem takeBool_encodeBool (v : Bool) (rest : List Byte) : takeBool (encodeBool v ++ rest) = some (v, rest) := by
  cases v <;> rfl

@[simp] theorem takeCap_encodeCap {cap : Option Int} (h : cap.all fitsField = true) (rest : List Byte) :
    takeCap (encodeCap cap ++ rest) = some (cap, rest) := by
  cases cap with
  | none => rfl
  | some v => exact congrArg (Option.map fun p => (some p.1, p.2)) (takeInt_encodeInt h rest)

@[simp] theorem takeSource_encodeSource (src : PixelSource) (rest : List Byte) :
    takeSource (encodeSource src ++ rest) = some (src, rest) := by
  simp [takeSource, encodeSource]

@[simp] theorem takeHalf_encodeHalf (v : Half) (rest : List Byte) : takeHalf (encodeHalf v ++ rest) = some (v, rest) := by
  have joined : v.extractLsb' 8 8 ++ v.extractLsb' 0 8 = v :=
    (BitVec.extractLsb'_append_extractLsb'_eq_extractLsb' rfl).trans BitVec.extractLsb'_eq_self
  exact congrArg (fun w : Half => some (w, rest)) joined

@[simp] theorem takeRamSource_encodeRamSource (src : RamSource) (rest : List Byte) :
    takeRamSource (encodeRamSource src ++ rest) = some (src, rest) := by
  cases src with
  | verbatim b => cases b <;> rfl
  | rotated b => cases b <;> rfl
  | constant v => rfl

/-! ### The decoder, row by row -/

/-- The reader of the operands of `i`'s row: it depends on the row alone, not on the operands of `i` (R114, R100 to R113). -/
def takeOperands (i : Instr) (bs : List Byte) : Option (Instr × List Byte) :=
  match i with
  | .init _ => takeInit bs
  | .setWindow _ _ _ _ => takeSetWindow bs
  | .setCursor _ _ => takeSetCursor bs
  | .display _ => takeDisplay bs
  | .displayL _ => takeDisplayL bs
  | .clear _ => takeClear bs
  | .setPixel _ _ _ _ => takeSetPixel bs
  | .fillRect _ _ _ _ _ _ => takeFillRect bs
  | .fill _ _ => takeFill bs
  | .blit _ _ _ _ _ _ => takeBlit bs
  | .stext _ _ _ _ _ _ => takeStext bs
  | .autofit _ _ _ _ _ _ _ _ => takeAutofit bs
  | .cmdWindowX _ _ => (takeByte bs).bind fun xs => (takeByte xs.2).map fun xe => (.cmdWindowX xs.1 xe.1, xe.2)
  | .cmdWindowY _ _ => (takeHalf bs).bind fun ys => (takeHalf ys.2).map fun ye => (.cmdWindowY ys.1 ye.1, ye.2)
  | .cmdCursorX _ => (takeByte bs).map fun x => (.cmdCursorX x.1, x.2)
  | .cmdCursorY _ => (takeHalf bs).map fun y => (.cmdCursorY y.1, y.2)
  | .cmdWriteRam _ => (takeRamSource bs).map fun r => (.cmdWriteRam r.1, r.2)
  | i => some (i, bs)

/-- The code byte selects the row: outside the full-mode slot the decoder goes on with the row's reader (R114, R116a). -/
theorem decode_codeOf {i : Instr} (fullCmd : Byte) (bs : List Byte) (h : i ≠ .cmdFullCtrl) :
    ∃ mnemonic, decode none (codeOf fullCmd i :: bs) = orBadOperands mnemonic (takeOperands i bs) := by
  cases i with
  | cmdFullCtrl => exact absurd rfl h
  | turnOn | sleep | cmdSwReset | cmdDataEntry | cmdWriteLut | cmdDisplayOption | cmdBorder | cmdUpdateCtrl | cmdActivate
  | cmdDeepSleep => exact ⟨"", rfl⟩
  | _ => exact ⟨_, rfl⟩

/-- A row's reader reads back the operands the row's format carries. -/
theorem takeOperands_operandBytes {i : Instr} (h : i.wellFormed = true) (rest : List Byte) :
    takeOperands i (operandBytes i ++ rest) = some (i, rest) := by
  cases i with
  | init | setWindow | setCursor | display | displayL | clear | setPixel | fillRect | fill | blit | stext | autofit =>
    simp only [Instr.wellFormed, Bool.and_eq_true] at h
    simp [takeOperands, operandBytes, takeInit, takeSetWindow, takeSetCursor, takeDisplay, takeDisplayL, takeClear, takeSetPixel,
      takeFillRect, takeFill, takeBlit, takeStext, takeAutofit, h]
  | cmdWindowX | cmdWindowY | cmdCursorX | cmdCursorY | cmdWriteRam => simp [takeOperands, operandBytes]
  | _ => rfl

/-- Settles O1: the code byte selects the row (`decode_codeOf`), whose reader reads the operands back; in its slot `fullCmd` is
CMD_FULL_CTRL itself. -/
theorem decodeReadsBackEncode : Obligations.DecodeReadsBackEncode := by
  intro fullCmd i rest hwf
  constructor
  · intro hi
    obtain ⟨mnemonic, hrow⟩ := decode_codeOf fullCmd (operandBytes i ++ rest) hi
    exact hrow.trans (congrArg (orBadOperands mnemonic) (takeOperands_operandBytes hwf rest))
  · rintro rfl
    exact if_pos rfl

/-- A request's own frame decodes to it (R114). -/
theorem decodeFrame_encode {i : Instr} (fullCmd : Byte) (hr : i.isRequest = true) (hwf : i.wellFormed = true) :
    decodeFrame (encode fullCmd i) = .ok i := by
  have back : decode none (encode fullCmd i) = .ok (i, []) := by
    simpa using (decodeReadsBackEncode fullCmd i [] hwf).1 (by rintro rfl; cases hr)
  simp only [decodeFrame, back, hr, if_true]

/-- Settles O2: each frame written out is the encoding of its instruction, and reads back (`decodeFrame_encode`,
`decodeReadsBackEncode`). -/
theorem spelledFramesDecode : Obligations.SpelledFramesDecode := by
  have command (i : Instr) (hi : i ≠ .cmdFullCtrl) (hwf : i.wellFormed = true) :
      decode none (encode 0x22#8 i ++ []) = .ok (i, []) :=
    (decodeReadsBackEncode 0x22#8 i [] hwf).1 hi
  exact ⟨decodeFrame_encode (i := .turnOn) 0x22#8 rfl rfl, decodeFrame_encode (i := .sleep) 0x22#8 rfl rfl,
    decodeFrame_encode (i := .init 1) 0x22#8 rfl rfl, decodeFrame_encode (i := .clear 255) 0x22#8 rfl rfl,
    command .cmdSwReset nofun rfl, command (.cmdWindowX 0x01#8 0x13#8) nofun rfl, command (.cmdWindowY 0#16 296#16) nofun rfl,
    command .cmdUpdateCtrl nofun rfl, (decodeReadsBackEncode 0x22#8 .cmdFullCtrl [] rfl).2 rfl⟩

/-! ### A byte outside the fourteen codes -/

/-- A decoder's answer that is no host request: an error or a bus command (R136). -/
def NoRequest (answer : Except DecodeError (Instr × List Byte)) : Prop :=
  ∀ i rest, answer = .ok (i, rest) → i.isRequest = false

theorem noRequest_error (e : DecodeError) : NoRequest (.error e) := nofun

theorem noRequest_ok {i : Instr} (h : i.isRequest = false) (bs : List Byte) : NoRequest (.ok (i, bs)) := by
  rintro _ _ ⟨⟩
  exact h

theorem noRequest_map {α : Type} {f : α → Instr × List Byte} (mnemonic : String) (o : Option α)
    (h : ∀ a, (f a).1.isRequest = false) : NoRequest (orBadOperands mnemonic (o.map f)) := by
  cases o with
  | none => exact noRequest_error _
  | some a => exact noRequest_ok (h a) _

theorem noRequest_bind {α : Type} {f : α → Option (Instr × List Byte)} (mnemonic : String) (o : Option α)
    (h : ∀ a, NoRequest (orBadOperands mnemonic (f a))) : NoRequest (orBadOperands mnemonic (o.bind f)) := by
  cases o with
  | none => exact noRequest_error _
  | some a => exact h a

theorem noRequest_ite {p : Prop} [Decidable p] {a b : Except DecodeError (Instr × List Byte)} (ha : NoRequest a)
    (hb : NoRequest b) : NoRequest (if p then a else b) := by
  split
  · exact ha
  · exact hb

/-- What a byte outside R114's codes begins is no request: a bus command at most (R116a). -/
theorem decode_noRequest {c : Byte} (hc : c ∉ requestCodes) (bs : List Byte) : NoRequest (decode none (c :: bs)) := by
  simp only [requestCodes, List.mem_cons, List.not_mem_nil, or_false, not_or] at hc
  simp only [decode, hc, if_false, reduceCtorEq]
  refine noRequest_ite (noRequest_ok rfl bs) (noRequest_ite (noRequest_ok rfl bs) ?_)
  refine noRequest_ite (noRequest_bind _ _ fun _ => noRequest_map _ _ fun _ => rfl) ?_
  refine noRequest_ite (noRequest_bind _ _ fun _ => noRequest_map _ _ fun _ => rfl) ?_
  refine noRequest_ite (noRequest_map _ _ fun _ => rfl) (noRequest_ite (noRequest_map _ _ fun _ => rfl) ?_)
  refine noRequest_ite (noRequest_map _ _ fun _ => rfl) (noRequest_ite (noRequest_ok rfl bs) ?_)
  refine noRequest_ite (noRequest_ok rfl bs) (noRequest_ite (noRequest_ok rfl bs) ?_)
  refine noRequest_ite (noRequest_ok rfl bs) (noRequest_ite (noRequest_ok rfl bs) ?_)
  exact noRequest_ite (noRequest_ok rfl bs) (noRequest_error _)

/-- Such a frame is refused whatever follows its first byte. -/
theorem decodeFrame_of_not_code {c : Byte} (hc : c ∉ requestCodes) (bs : List Byte) :
    ∃ e, decodeFrame (c :: bs) = .error e := by
  have refuses := decode_noRequest hc bs
  unfold decodeFrame
  split
  · exact ⟨_, rfl⟩
  · next i hd => exact ⟨_, if_neg (by rw [refuses i _ hd]; exact Bool.false_ne_true)⟩
  · next i _ _ hd => exact ⟨_, if_neg (by rw [refuses i _ hd]; exact Bool.false_ne_true)⟩

/-- Settles O3. -/
theorem onlyRequestCodesAreRequests : Obligations.OnlyRequestCodesAreRequests := by
  intro s c bs fs hl hs hp hc
  obtain ⟨e, he⟩ := decodeFrame_of_not_code hc bs
  rw [Machine.step_badFrame hl hs hp he, Machine.State.popPort, hp]
  rfl

end Sys2Proof
end

section
/-!
PROOFS. The statements of 30_encoding.md about the bus: what each command sends when it runs alone (R94, R100 to R113), TRACE on the
pins (R92, R93), and the window byte (R115).
-/

namespace Sys2Proof.Machine

/-! ### A bus command run alone -/

/-- A command with no wait appends its events; SEQ and the latch are at rest after it. -/
theorem exec_bus_emit {i : Instr} {s : State} {es : List Event} (hi : i.isRequest = false) (h : busSeq s i = [.emit es]) :
    exec i s = .next { s with trace := s.trace ++ es, seq := .idle, latch := none } := by
  rw [exec_bus hi, h]
  rfl

/-- A command followed by a wait that answers Idle appends its events and the sample; the answer is used up. -/
theorem exec_bus_emit_wait {i : Instr} {s : State} {es : List Event} (hi : i.isRequest = false)
    (h : busSeq s i = [.emit es, .wait]) (hr : s.nextAnswer = .idle) :
    exec i s = .next { s.consumeAnswer with trace := s.trace ++ es ++ [.poll .idle], seq := .idle, latch := none } := by
  have run : runSeq 0 [.emit es, .wait] s = runSeq 0 [] ((s.emit es).pollWith .idle) := runSeq_wait_idle _ _ (s.emit es) hr
  rw [exec_bus hi, h, run]
  rfl

theorem halfLow_eq_setWidth (v : Half) : halfLow v = v.setWidth 8 :=
  (BitVec.setWidth_eq_extractLsb' (by decide)).symm

theorem halfHigh_eq_setWidth (v : Half) : halfHigh v = (v >>> 8).setWidth 8 := by
  refine BitVec.eq_of_toNat_eq ?_
  rw [halfHigh, BitVec.extractLsb'_toNat, BitVec.toNat_setWidth, BitVec.toNat_ushiftRight]

/-- Settles O26: each of the ten is a command with no wait (`exec_bus_emit`). -/
theorem registerCommandsComplete : Obligations.RegisterCommandsComplete := by
  intro s xs xe ys ye
  rw [← halfHigh_eq_setWidth, ← halfHigh_eq_setWidth, ← halfLow_eq_setWidth, ← halfLow_eq_setWidth]
  refine ⟨?_, ?_, ?_, ?_, ?_, ?_, ?_, ?_, ?_, ?_⟩ <;> exact exec_bus_emit rfl rfl

/-- The waveform upload is 0x32 and its 153 bytes, one transaction each (R107). -/
theorem register_lut (c : Cfg) : register 0x32#8 ((List.range Config.lutUsed).map c.lutByte) = waveformEvents c :=
  congrArg (Event.cmd 0x32#8 :: ·) List.map_map

/-- Settles O28: each of the three is a command followed by a wait (`exec_bus_emit_wait`). -/
theorem waitingCommandsComplete : Obligations.WaitingCommandsComplete := by
  intro s hr
  have reset := exec_bus_emit_wait (i := .cmdSwReset) rfl rfl hr
  have activate := exec_bus_emit_wait (i := .cmdActivate) rfl rfl hr
  have upload := exec_bus_emit_wait (i := .cmdWriteLut) rfl rfl hr
  rw [List.append_assoc] at reset activate
  rw [register_lut] at upload
  exact ⟨reset, activate, upload⟩

/-! ### 0x24 and its stream -/

/-- A walk over `m * n` positions is a walk over `m` rows of `n` columns. -/
theorem map_range_mul {α : Type} (f : Nat → Nat → α) (m n : Nat) :
    (List.range (m * n)).map (fun p => f (p / n) (p % n)) =
      (List.range m).flatMap fun j => (List.range n).map fun i => f j i := by
  induction m with
  | zero => rw [Nat.zero_mul]; rfl
  | succ m ih =>
    have row : ∀ i ∈ List.range n, f ((m * n + i) / n) ((m * n + i) % n) = f m i := by
      intro i hi
      have hi : i < n := List.mem_range.1 hi
      rw [Nat.mul_comm, Nat.mul_add_div (by omega), Nat.mul_add_mod, Nat.div_eq_of_lt hi, Nat.mod_eq_of_lt hi, Nat.add_zero]
    rw [Nat.succ_mul, List.range_add, List.map_append, ih, List.map_map, List.range_succ, List.flatMap_append,
      List.flatMap_singleton]
    exact congrArg _ (List.map_congr_left row)

/-- The landscape transform's stream: rows outer, byte columns inner, one transaction per byte (R148). -/
theorem ramStream_rotated (s : State) (b : Buf) :
    ramStream s (.rotated b) = (List.range s.cfg.hPx).flatMap fun j => (List.range s.cfg.wb).map fun i =>
      Event.data [s.readByte b ((s.cfg.wb - 1 - i) * s.cfg.hPx + j)] := by
  rw [← map_range_mul fun j i => Event.data [s.readByte b ((s.cfg.wb - 1 - i) * s.cfg.hPx + j)], Nat.mul_comm]
  exact List.map_map

/-- Settles O27: 0x24 is a command with no wait (`exec_bus_emit`); the transform's stream is the double loop
(`ramStream_rotated`). -/
theorem writeRamCommandCompletes : Obligations.WriteRamCommandCompletes := by
  intro s b v
  refine ⟨exec_bus_emit rfl rfl, exec_bus_emit rfl rfl, ?_⟩
  rw [← ramStream_rotated]
  exact exec_bus_emit rfl rfl

/-! ### The pins -/

theorem pinHistory_emit (s : State) (es : List Event) :
    (s.emit es).pinHistory = s.pinHistory ++ es.flatMap (eventPins s.cfg) :=
  List.flatMap_append

theorem pinHistory_emit_singleton (s : State) (e : Event) : (s.emit [e]).pinHistory = s.pinHistory ++ eventPins s.cfg e := by
  rw [pinHistory_emit, List.flatMap_singleton]

/-- The level an act drives chip-select to. -/
def csLevel : PinAct → Option Bool
  | .cs l => some l
  | .dc _ => none
  | .shift _ => none
  | .rst _ => none
  | .delay _ => none
  | .sample _ => none

/-- The level an act drives the reset line to. -/
def rstLevel : PinAct → Option Bool
  | .rst l => some l
  | .dc _ => none
  | .cs _ => none
  | .shift _ => none
  | .delay _ => none
  | .sample _ => none

theorem csAsserted_eq (s : State) :
    s.csAsserted = (lastLevel csLevel (!s.cfg.csActive) s.pinHistory == s.cfg.csActive) := rfl

theorem rstAsserted_eq (s : State) :
    s.rstAsserted = (lastLevel rstLevel (!s.cfg.rstActive) s.pinHistory == s.cfg.rstActive) := rfl

theorem lastLevel_append (line : PinAct → Option Bool) (before : Bool) (xs ys : List PinAct) :
    lastLevel line before (xs ++ ys) = lastLevel line (lastLevel line before xs) ys := by
  simp only [lastLevel, List.getLastD_eq_getLast?, List.filterMap_append, List.getLast?_append, Option.getD_or]

/-- Acts that do not drive a line leave its level. -/
theorem lastLevel_of_undriven {line : PinAct → Option Bool} {acts : List PinAct} (before : Bool)
    (h : ∀ a ∈ acts, line a = none) : lastLevel line before acts = before := by
  rw [lastLevel, List.filterMap_eq_nil_iff.2 h]
  rfl

/-- No event leaves chip-select asserted: a transaction's last act deasserts it (R93). -/
theorem lastLevel_csLevel_eventPins (c : Cfg) (e : Event) :
    lastLevel csLevel (!c.csActive) (eventPins c e) = !c.csActive := by
  have transaction (level : Bool) (bs : List Byte) :
      lastLevel csLevel (!c.csActive) (transactionPins c level bs) = !c.csActive := lastLevel_append _ _ _ _
  cases e with
  | rstLow | rstHigh | delay d => rfl
  | cmd b => exact transaction _ _
  | data bs => exact transaction _ _
  | poll r => cases r <;> rfl

theorem csAsserted_eq_false (s : State) : s.csAsserted = false := by
  have resting (es : List Event) : lastLevel csLevel (!s.cfg.csActive) (es.flatMap (eventPins s.cfg)) = !s.cfg.csActive := by
    induction es with
    | nil => rfl
    | cons e es ih => rw [List.flatMap_cons, lastLevel_append, lastLevel_csLevel_eventPins, ih]
  rw [csAsserted_eq, State.pinHistory, resting, Bool.not_beq_self]

/-- Only the reset edges drive the reset line (R92, R93). -/
theorem lastLevel_rstLevel_eventPins (c : Cfg) (before : Bool) {e : Event} (hlow : e ≠ .rstLow) (hhigh : e ≠ .rstHigh) :
    lastLevel rstLevel before (eventPins c e) = before := by
  have transaction (level : Bool) (bs : List Byte) : lastLevel rstLevel before (transactionPins c level bs) = before :=
    lastLevel_of_undriven before (by simp [transactionPins, rstLevel, or_imp, forall_and])
  cases e with
  | rstLow => exact absurd rfl hlow
  | rstHigh => exact absurd rfl hhigh
  | delay d => rfl
  | cmd b => exact transaction _ _
  | data bs => exact transaction _ _
  | poll r => cases r <;> rfl

theorem releasesReset_concat_rstLow (es : List Event) : releasesReset (es ++ [.rstLow]) = false := by
  simp [releasesReset, List.filter_append]

theorem releasesReset_concat_rstHigh (es : List Event) : releasesReset (es ++ [.rstHigh]) = true := by
  simp [releasesReset, List.filter_append]

theorem releasesReset_concat_of_noEdge (es : List Event) {e : Event} (hlow : e ≠ .rstLow) (hhigh : e ≠ .rstHigh) :
    releasesReset (es ++ [e]) = releasesReset es := by
  simp [releasesReset, List.filter_append, hlow, hhigh]

/-- The reset line's level is told by the last reset edge of TRACE (R29). -/
theorem lastLevel_rstLevel_flatMap (c : Cfg) (es : List Event) :
    lastLevel rstLevel (!c.rstActive) (es.flatMap (eventPins c)) = (c.rstActive ^^ releasesReset es) := by
  induction es using List.reverseRecOn with
  | nil => exact (Bool.xor_true _).symm
  | append_singleton es e ih =>
    rw [List.flatMap_append, List.flatMap_singleton, lastLevel_append]
    by_cases hlow : e = .rstLow
    · rw [hlow, releasesReset_concat_rstLow, Bool.xor_false]; rfl
    · by_cases hhigh : e = .rstHigh
      · rw [hhigh, releasesReset_concat_rstHigh, Bool.xor_true]; rfl
      · rw [lastLevel_rstLevel_eventPins c _ hlow hhigh, ih, releasesReset_concat_of_noEdge es hlow hhigh]

theorem rstAsserted_eq_not_releasesReset (s : State) : s.rstAsserted = !releasesReset s.trace := by
  rw [rstAsserted_eq, State.pinHistory, lastLevel_rstLevel_flatMap]
  cases s.cfg.rstActive <;> cases releasesReset s.trace <;> rfl

/-- Settles O59: the history grows by the new event's acts (`pinHistory_emit_singleton`); every event leaves chip-select deasserted
(`csAsserted_eq_false`), and the reset line is asserted exactly while TRACE leaves a pulse open
(`rstAsserted_eq_not_releasesReset`), which the invariant rules out. -/
theorem linesFollowTheTrace : Obligations.LinesFollowTheTrace := by
  intro s
  refine ⟨fun c => pinHistory_emit_singleton s _, fun bs => ?_, pinHistory_emit_singleton s _, pinHistory_emit_singleton s _,
    csAsserted_eq_false s, ?_, ?_, fun hinv => ?_⟩
  · rw [pinHistory_emit_singleton, List.append_assoc, List.append_assoc]
    rfl
  · rw [rstAsserted_eq_not_releasesReset, State.emit_trace, releasesReset_concat_rstLow, Bool.not_false]
  · rw [rstAsserted_eq_not_releasesReset, State.emit_trace, releasesReset_concat_rstHigh, Bool.not_true]
  · obtain ⟨-, -, -, released, -⟩ := hinv
    rw [rstAsserted_eq_not_releasesReset, released, Bool.not_true]

/-! ### The window byte -/

/-- R115a: a window byte is its X operand's 8-pixel column modulo 256. -/
theorem windowX_toNat (x : Int) : ((windowX x).toNat : Int) = x / 8 % 256 := by
  rw [windowX, lowByte, BitVec.toNat_ofInt]
  omega

/-- Settles O60: both clauses are read off the byte's value (`windowX_toNat`). -/
theorem windowTruncation : Obligations.WindowTruncation := by
  intro x x'
  have value := windowX_toNat x
  have value' := windowX_toNat x'
  rw [BitVec.toNat_eq]
  omega

end Sys2Proof.Machine
end

section
/-!
PROOFS. The statements of 40_bus_transport.md: a wait, one busy sample at a time and sample after sample to its end (R134, R222).
-/

namespace Sys2Proof.Machine

/-! ### When a wait is exhausted -/

theorem timedOut_eq_true_iff {c : Cfg} {n : Nat} : timedOut c n = true ↔ ∃ t, c.busyTimeout = some t ∧ t ≤ n := by
  rw [timedOut]
  cases c.busyTimeout <;> simp

theorem timedOut_eq_false_iff {c : Cfg} {n : Nat} : timedOut c n = false ↔ ∀ t, c.busyTimeout = some t → n < t := by
  rw [timedOut]
  cases c.busyTimeout <;> simp

/-! ### One sample -/

section Sample

variable {s : State} {n : Nat} {rest : List SeqOp} (hl : s.cfg.legal = true) (hs : s.seq = .active n (.wait :: rest))
include hl hs

theorem step_wait_idle (hr : s.nextAnswer = .idle) :
    step s = .next (runSeq 0 rest { s.consumeAnswer with trace := s.trace ++ [.poll .idle] }) := by
  rw [step_active hl hs, runSeq_wait_idle _ _ _ hr]
  rfl

theorem step_wait_busy (hr : s.nextAnswer = .busy) (ht : ∀ t, s.cfg.busyTimeout = some t → n + 1 < t) :
    step s = .next { s.consumeAnswer with
      trace := s.trace ++ [.poll .busy, .delay .poll], seq := .active (n + 1) (.wait :: rest) } := by
  rw [step_active hl hs, runSeq_wait_busy _ _ _ hr (timedOut_eq_false_iff.2 ht), State.emit, State.pollWith_trace,
    List.append_assoc]
  rfl

theorem step_wait_timeout (hr : s.nextAnswer = .busy) (ht : ∃ t, s.cfg.busyTimeout = some t ∧ t ≤ n + 1) :
    step s = .next { s.consumeAnswer with
      trace := s.trace ++ [.poll .busy], fault := { s.fault with timeout := true },
      res := { s.res with status := .timeout }, seq := .idle, latch := none } := by
  rw [step_active hl hs, runSeq_wait_timeout _ _ _ hr (timedOut_eq_true_iff.2 ht)]
  rfl

end Sample

/-- Settles O7: the three ways one sample of a wait can go. -/
theorem waitTakesOneSample : Obligations.WaitTakesOneSample :=
  fun _ _ _ hl hs => ⟨step_wait_idle hl hs, step_wait_busy hl hs, step_wait_timeout hl hs⟩

/-! ### Sample after sample -/

/-- One more step at the end of a run. -/
theorem run_succ_of_run_step {k : Nat} {s t u : State} (hrun : Host.Core.run Sys2Proof.core k s = .next t)
    (hstep : step t = .next u) : Host.Core.run Sys2Proof.core (k + 1) s = .next u := by
  induction k generalizing s with
  | zero =>
    cases hrun
    exact run_succ_eq.2 ⟨u, hstep, rfl⟩
  | succ k ih =>
    obtain ⟨v, hfirst, hrest⟩ := run_succ_eq.1 hrun
    exact run_succ_eq.2 ⟨v, hfirst, ih hrest⟩

theorem busyPolls_succ (k : Nat) : busyPolls (k + 1) = busyPolls k ++ [.poll .busy, .delay .poll] := by
  rw [busyPolls, List.replicate_succ', List.flatten_concat, ← busyPolls]

/-- The last of `k + 1` Busy answers, split off. -/
theorem replicate_busy_succ_append (k : Nat) (later : List Answer) :
    List.replicate (k + 1) .busy ++ later = List.replicate k .busy ++ .busy :: later := by
  rw [List.replicate_succ', ← List.append_cons]

/-- `k` Busy answers that leave a sample over keep the operation at its wait, with `k` samples more counted (R134). By induction,
with one Busy answer more still to come after the first `k`. -/
theorem run_busyPolls {s : State} {n k : Nat} {rest : List SeqOp} {later : List Answer} (hl : s.cfg.legal = true)
    (hs : s.seq = .active n (.wait :: rest)) (ha : s.answers = List.replicate k .busy ++ later)
    (ht : ∀ t, s.cfg.busyTimeout = some t → n + k < t) :
    Host.Core.run Sys2Proof.core k s = .next { s with
      answers := later, trace := s.trace ++ busyPolls k, seq := .active (n + k) (.wait :: rest) } := by
  induction k generalizing later with
  | zero =>
    have hnone : s.trace ++ busyPolls 0 = s.trace := List.append_nil _
    have hlater : s.answers = later := ha
    rw [run_zero, hnone, Nat.add_zero, ← hs, ← hlater]
  | succ k ih =>
    have hrun := ih (ha.trans (replicate_busy_succ_append k later)) fun t h => Nat.lt_of_succ_lt (ht t h)
    rw [run_succ_of_run_step hrun (step_wait_busy hl rfl rfl ht), busyPolls_succ, List.append_assoc]
    rfl

/-- Settles O8: the Busy answers by `run_busyPolls`, then one Idle sample. -/
theorem waitEndsAtIdle : Obligations.WaitEndsAtIdle := by
  intro s n k rest later hl hs ha ht
  exact run_succ_of_run_step (run_busyPolls hl hs ha ht) (step_wait_idle hl rfl rfl)

/-- Settles O9: all but the last Busy answer by `run_busyPolls`, then the sample that reaches BUSY_TIMEOUT. -/
theorem waitTimesOut : Obligations.WaitTimesOut := by
  intro s n k rest later hl hs ha hlimit
  have hlast := ha.trans (replicate_busy_succ_append k later)
  have hleft : ∀ t, s.cfg.busyTimeout = some t → n + k < t := by
    intro t h
    have heq : n + k + 1 = t := Option.some.inj (hlimit.symm.trans h)
    omega
  exact run_succ_of_run_step (run_busyPolls hl hs hlast hleft) (step_wait_timeout hl rfl rfl ⟨_, hlimit, le_rfl⟩)

end Sys2Proof.Machine
end

section
/-!
PROOFS. The statements of 41_controller_protocol.md: what each protocol operation sends and leaves behind when its waits answer Idle
(R140 to R150), where it stops when one answers Busy (R153, R222), what is left alone outside phase Idle (R151), and the landscape
transform's map (R148).
-/

namespace Sys2Proof.Machine

/-! ### A sequence up to its first wait -/

/-- Items that are no waits take no busy sample. -/
theorem foldl_applyOp_nextAnswer (ops : List SeqOp) (s : State) : (ops.foldl applyOp s).nextAnswer = s.nextAnswer := by
  induction ops generalizing s with
  | nil => rfl
  | cons op ops ih => exact (ih _).trans (by cases op <;> rfl)

/-- The operands stay latched while the sequence runs (R33). -/
theorem foldl_applyOp_latch (ops : List SeqOp) (s : State) : (ops.foldl applyOp s).latch = s.latch := by
  induction ops generalizing s with
  | nil => rfl
  | cons op ops ih => exact (ih _).trans (by cases op <;> rfl)

section UntilWait

variable {before : List SeqOp} (hw : ∀ op ∈ before, op ≠ .wait) (rest : List SeqOp) {s : State}
include hw

/-- A first wait that answers Idle lets the sequence go on (R134). -/
theorem runSeq_until_idle (hr : s.nextAnswer = .idle) :
    runSeq 0 (before ++ .wait :: rest) s = runSeq 0 rest ((before.foldl applyOp s).pollWith .idle) := by
  rw [runSeq_prefix _ _ _ hw, runSeq_wait_idle _ _ _ ((foldl_applyOp_nextAnswer _ _).trans hr)]

/-- A first wait that answers Busy stops the operation there, all items before it done (R134, R222). -/
theorem stopsBusy_runSeq {i : Instr} (hr : s.nextAnswer = .busy) (hlatch : s.latch = some i) :
    stopsBusy (.next (runSeq 0 (before ++ .wait :: rest) s)) (before.foldl applyOp s).consumeAnswer i rest := by
  have busy := (foldl_applyOp_nextAnswer before s).trans hr
  have latched := (foldl_applyOp_latch before s).trans hlatch
  rw [runSeq_prefix _ _ _ hw]
  constructor
  · intro exhausted
    rw [runSeq_wait_timeout _ _ _ busy (timedOut_eq_true_iff.2 exhausted)]
    rfl
  · intro left
    rw [runSeq_wait_busy _ _ _ busy (timedOut_eq_false_iff.2 left), ← latched, State.emit, State.pollWith_trace,
      List.append_assoc]
    rfl

end UntilWait

/-! ### A protocol operation that passes its checks -/

section Accepted

variable {s : State} {i : Instr} {ops : List SeqOp} (ha : accepts s.cfg i = true) (hp : s.phase = .idle)
include ha hp

theorem protocolOp_accepted : s.protocolOp i ops = runSeq 0 (ops ++ [SeqOp.status .ok]) { s with latch := some i } := by
  rw [State.protocolOp, if_pos ha, if_pos hp, State.startOp]

/-- An operation without a wait does its items and ends with RES.STATUS = OK. -/
theorem protocolOp_noWait (hw : ∀ op ∈ ops, op ≠ .wait) :
    s.protocolOp i ops = ((ops.foldl applyOp { s with latch := some i }).setStatus .ok).endOperation := by
  rw [protocolOp_accepted ha hp, runSeq_prefix _ _ _ hw]
  rfl

end Accepted

/-! ### Window, cursor and sleep (R144, R145, R150) -/

/-- What `winSeq` sends (R144, R102, R103). -/
def windowEvents (xs ys xe ye : Int) : List Event :=
  [.cmd 0x44#8, .data [BitVec.ofInt 8 (xs / 8)], .data [BitVec.ofInt 8 (xe / 8)],
   .cmd 0x45#8, .data [BitVec.ofInt 8 ys], .data [BitVec.ofInt 8 (ys / 256)],
   .data [BitVec.ofInt 8 ye], .data [BitVec.ofInt 8 (ye / 256)]]

theorem winSeq_noWait (xs ys xe ye : Int) : ∀ op ∈ winSeq xs ys xe ye, op ≠ .wait := by
  simp [winSeq, windowXSeq, windowYSeq]

theorem foldl_winSeq (xs ys xe ye : Int) (s : State) :
    (winSeq xs ys xe ye).foldl applyOp s =
      { s with win := some (windowOf xs ys xe ye), trace := s.trace ++ windowEvents xs ys xe ye } := by
  simp [winSeq, windowXSeq, windowYSeq, register, applyOp, State.emit, windowEvents, windowX, lowByte, sendCommand, sendData]

/-- Settles O15: `winSeq` has no wait (`protocolOp_noWait`), and does what `foldl_winSeq` says. -/
theorem setWindowCompletes : Obligations.SetWindowCompletes := by
  intro s xs ys xe ye hxs hys hxe hye hp
  have ha : accepts s.cfg (.setWindow xs ys xe ye) = true := by simp [accepts, *]
  refine congrArg Host.Outcome.next ((protocolOp_noWait ha hp (winSeq_noWait xs ys xe ye)).trans ?_)
  rw [foldl_winSeq]
  rfl

theorem curSeq_noWait (x y : Int) : ∀ op ∈ curSeq x y, op ≠ .wait := by
  simp [curSeq, cursorXSeq, cursorYSeq]

theorem foldl_curSeq (x y : Int) (s : State) :
    (curSeq x y).foldl applyOp s = { s with
      cur := some (cursorOf x y),
      trace := s.trace ++
        [.cmd 0x4E#8, .data [BitVec.ofInt 8 x], .cmd 0x4F#8, .data [BitVec.ofInt 8 y], .data [BitVec.ofInt 8 (y / 256)]] } := by
  simp [curSeq, cursorXSeq, cursorYSeq, register, applyOp, State.emit, lowByte, sendCommand, sendData]

/-- Settles O16: `curSeq` has no wait (`protocolOp_noWait`), and does what `foldl_curSeq` says. -/
theorem setCursorCompletes : Obligations.SetCursorCompletes := by
  intro s x y hx hy hp
  have ha : accepts s.cfg (.setCursor x y) = true := by simp [accepts, *]
  refine congrArg Host.Outcome.next ((protocolOp_noWait ha hp (curSeq_noWait x y)).trans ?_)
  rw [foldl_curSeq]
  rfl

/-- Settles O21: `sleepSeq` has no wait (`protocolOp_noWait`); its two items are the command and the phase. -/
theorem sleepCompletes : Obligations.SleepCompletes := by
  intro s hp
  have hw : ∀ op ∈ sleepSeq s.cfg, op ≠ .wait := by simp [sleepSeq, deepSleepSeq]
  exact congrArg Host.Outcome.next (protocolOp_noWait rfl hp hw)

/-! ### The refreshing operations (R146 to R149) -/

/-- What `refreshSeq` does before its wait. -/
def refreshBefore : List SeqOp := [.phase .refreshing, .emit (register 0x20#8 [])]

theorem refreshBefore_noWait : ∀ op ∈ refreshBefore, op ≠ .wait := by
  simp [refreshBefore]

theorem foldl_refreshBefore (s : State) :
    refreshBefore.foldl applyOp s = { s with phase := .refreshing, trace := s.trace ++ [.cmd 0x20#8] } := rfl

/-- `turnOnDisplay` started in phase Idle, cut at its wait. -/
theorem exec_turnOn_cut {s : State} (hp : s.phase = .idle) :
    exec .turnOn s =
      .next (runSeq 0 (refreshBefore ++ SeqOp.wait :: [.phase .idle, .status .ok]) { s with latch := some .turnOn }) :=
  congrArg Host.Outcome.next (protocolOp_accepted rfl hp)

/-- Settles O17: the wait answers Idle (`runSeq_until_idle`), and two items end the operation. -/
theorem turnOnCompletes : Obligations.TurnOnCompletes := by
  intro s hp hr
  rw [exec_turnOn_cut hp, runSeq_until_idle refreshBefore_noWait, foldl_refreshBefore,
    List.append_cons s.trace (.cmd 0x20#8) [.poll .idle]]
  case hr => exact hr
  rfl

/-- A picture sent and shown whose wait answers Busy, whatever its stream: all of it is sent before the sample. -/
theorem stopsBusy_showSeq {s : State} {i : Instr} {src : RamSource} (hexec : exec i s = .next (s.protocolOp i (showSeq s src)))
    (ha : accepts s.cfg i = true) (hp : s.phase = .idle) (hr : s.nextAnswer = .busy) :
    stopsBusy (exec i s)
      { s.consumeAnswer with
        phase := .refreshing, cur := some (cursorOf s.cfg.curX s.cfg.curY),
        trace := s.trace ++ (refPointEvents s.cfg ++ [.cmd 0x24#8] ++ ramStream s src ++ [.cmd 0x20#8]) }
      i [.phase .idle, .status .ok] := by
  have stops := stopsBusy_runSeq (s := { s with latch := some i }) (showBefore_noWait s src) [.phase .idle, .status .ok] hr rfl
  rw [foldl_showBefore] at stops
  rw [hexec, protocolOp_accepted ha hp, showSeq_cut]
  exact stops

theorem isSelector_of_eq {b : Int} (hb : b = 0 ∨ b = 1) : isSelector b = true := by
  simpa [isSelector] using hb

theorem isByte_of_le {v : Int} (h0 : 0 ≤ v) (h255 : v ≤ 255) : isByte v = true := by
  simp [isByte, h0, h255]

theorem bufOf_eq {b : Int} (hb : b = 0 ∨ b = 1) : bufOf b = if b = 0 then .portrait else .landscape := by
  obtain rfl | rfl := hb <;> rfl

/-- Settles O18: a picture shown (`protocolOp_showSeq_idle`) whose stream is the buffer as one run. -/
theorem displayCompletes : Obligations.DisplayCompletes := by
  intro s b hb hp hr
  rw [← bufOf_eq hb]
  exact congrArg Host.Outcome.next (protocolOp_showSeq_idle (.verbatim (bufOf b)) (isSelector_of_eq hb) hp hr)

/-- Settles O20: a picture shown (`protocolOp_showSeq_idle`) whose stream is copies of one byte. -/
theorem clearCompletes : Obligations.ClearCompletes := by
  intro s v h0 h255 hp hr
  exact congrArg Host.Outcome.next (protocolOp_showSeq_idle (.constant (lowByte v)) (isByte_of_le h0 h255) hp hr)

/-- Settles O19: a picture shown (`protocolOp_showSeq_idle`) whose stream is the transform's double loop
(`ramStream_rotated`). -/
theorem displayLandscapeCompletes : Obligations.DisplayLandscapeCompletes := by
  intro s b hb hp hr
  have shown := protocolOp_showSeq_idle (.rotated (bufOf b)) (i := .displayL b) (isSelector_of_eq hb) hp hr
  rw [shownEvents, ramStream_rotated, ← List.append_assoc, ← List.append_assoc] at shown
  rw [← bufOf_eq hb]
  exact congrArg Host.Outcome.next shown

/-- Settles O25: `turnOnDisplay` is cut at its wait (`stopsBusy_runSeq`); the other three are pictures shown
(`stopsBusy_showSeq`). -/
theorem refreshStopsAtItsWait : Obligations.RefreshStopsAtItsWait := by
  intro s hp hr
  refine ⟨?_, fun b hb => ?_, fun b hb => ?_, fun v h0 h255 => ?_⟩
  · rw [exec_turnOn_cut hp]
    exact stopsBusy_runSeq (s := { s with latch := some .turnOn }) refreshBefore_noWait _ hr rfl
  · have stops := stopsBusy_showSeq (i := .display b) rfl (isSelector_of_eq hb) hp hr
    rw [← bufOf_eq hb, List.append_assoc s.trace]
    exact stops
  · have stops := stopsBusy_showSeq (i := .displayL b) rfl (isSelector_of_eq hb) hp hr
    rw [ramStream_rotated, ← List.append_assoc, ← List.append_assoc, ← List.append_assoc] at stops
    rw [← bufOf_eq hb]
    exact stops
  · have stops := stopsBusy_showSeq (i := .clear v) rfl (isByte_of_le h0 h255) hp hr
    rw [List.append_assoc s.trace]
    exact stops

/-! ### `init` (R140 to R143, R153) -/

/-- Settles O13: no mode but the two has a sequence. -/
theorem initRejectsOtherModes : Obligations.InitRejectsOtherModes := by
  intro s mode hin hfull hpartial
  have unsupported : initSeq s.cfg mode = none := by rw [initSeq, if_neg hfull, if_neg hpartial]
  simp only [exec, execInit, accepts, hin, unsupported, if_true]
  rfl

/-- What `init` does before its software-reset wait (R140). -/
def resetBefore : List SeqOp :=
  [.phase .resetting, .mode .none, .forget, .emit resetPulse, .phase .softwareReset, .emit (register 0x12#8 [])]

theorem resetBefore_noWait : ∀ op ∈ resetBefore, op ≠ .wait := by
  simp [resetBefore]

theorem foldl_resetBefore (s : State) :
    resetBefore.foldl applyOp s = { s with
      phase := .softwareReset, mode := .none, win := none, cur := none, trace := s.trace ++ resetEvents } := by
  simp [resetBefore, resetPulse, register, applyOp, State.emit, resetEvents, sendCommand]

/-- The init window and the phase after it (R140, R153). -/
def windowItems (c : Cfg) : List SeqOp :=
  dataEntrySeq c ++ winSeq c.xOffset 0 c.winXe c.winYe ++ [SeqOp.phase .modeConfigured]

theorem windowItems_noWait (c : Cfg) : ∀ op ∈ windowItems c, op ≠ .wait := by
  simp [windowItems, dataEntrySeq, winSeq, windowXSeq, windowYSeq]

theorem foldl_windowItems (c : Cfg) (s : State) :
    (windowItems c).foldl applyOp s = { s with
      phase := .modeConfigured, win := some (initWindow c), trace := s.trace ++ initWindowEvents c } := by
  have window : windowOf c.xOffset 0 c.winXe c.winYe = initWindow c := rfl
  rw [windowItems, List.foldl_append, List.foldl_append, foldl_winSeq, window]
  simp [dataEntrySeq, register, applyOp, State.emit, initWindowEvents, windowEvents, sendCommand, sendData]

/-- The branch of a supported mode (R141, R142). -/
def modeBranch (c : Cfg) (mode : Int) : List SeqOp :=
  if mode = c.modeFull then fullBranch c else partialBranch c

theorem initSeq_eq_some {c : Cfg} {mode : Int} (h : mode = c.modeFull ∨ mode = c.modePartial) :
    initSeq c mode = some (initPrefix c ++ modeBranch c mode) := by
  unfold initSeq modeBranch
  by_cases hfull : mode = c.modeFull
  · rw [if_pos hfull, if_pos hfull]
  · rw [if_neg hfull, if_neg hfull, if_pos (h.resolve_left hfull)]

/-- `init` in a supported mode, in any phase, cut at its software-reset wait. -/
theorem exec_init_cut {s : State} {mode : Int} (hin : inRange mode = true)
    (h : mode = s.cfg.modeFull ∨ mode = s.cfg.modePartial) :
    exec (.init mode) s = .next (runSeq 0
      (resetBefore ++ SeqOp.wait :: (windowItems s.cfg ++ modeBranch s.cfg mode ++ [SeqOp.status .ok]))
      { s with latch := some (.init mode) }) := by
  simp only [exec, execInit, accepts, hin, initSeq_eq_some h, if_true]
  rfl

/-- `init` once its software-reset wait has answered Idle and the init window is sent: phase ModeConfigured, no mode yet. -/
def windowSent (s : State) (mode : Int) : State :=
  { s.consumeAnswer with
    phase := .modeConfigured, mode := .none, win := some (initWindow s.cfg), cur := none, latch := some (.init mode),
    trace := s.trace ++ resetEvents ++ [.poll .idle] ++ initWindowEvents s.cfg }

theorem exec_init_windowSent {s : State} {mode : Int} (hin : inRange mode = true)
    (h : mode = s.cfg.modeFull ∨ mode = s.cfg.modePartial) (hr : s.nextAnswer = .idle) :
    exec (.init mode) s = .next (runSeq 0 (modeBranch s.cfg mode ++ [SeqOp.status .ok]) (windowSent s mode)) := by
  rw [exec_init_cut hin h, runSeq_until_idle resetBefore_noWait, foldl_resetBefore, List.append_assoc,
    runSeq_prefix _ _ _ (windowItems_noWait s.cfg), foldl_windowItems]
  case hr => exact hr
  rfl

theorem fullBranch_noWait (c : Cfg) : ∀ op ∈ fullBranch c, op ≠ .wait := by
  simp [fullBranch, fullCtrlSeq]

theorem foldl_fullBranch (c : Cfg) (s : State) :
    (fullBranch c).foldl applyOp s = { s with
      phase := .idle, mode := .fullRefresh, trace := s.trace ++ [.cmd c.fullCtrlCmd, .data [c.fullCtrlByte]] } := rfl

/-- Settles O11: after the window (`exec_init_windowSent`) the full branch runs to its end without a wait. -/
theorem initFullCompletes : Obligations.InitFullCompletes := by
  intro s hin hr
  rw [exec_init_windowSent hin (.inl rfl) hr, modeBranch, if_pos rfl, runSeq_prefix _ _ _ (fullBranch_noWait s.cfg),
    foldl_fullBranch, windowSent]
  simp only [List.append_assoc]
  rfl

/-! ### The partial branch (R142, R153) -/

/-- What the partial branch does before its first wait (R107). -/
def waveformBefore (c : Cfg) : List SeqOp :=
  [.mode .partialRefresh, .emit (register 0x32#8 ((List.range Config.lutUsed).map c.lutByte))]

theorem waveformBefore_noWait (c : Cfg) : ∀ op ∈ waveformBefore c, op ≠ .wait := by
  simp [waveformBefore]

theorem foldl_waveformBefore (c : Cfg) (s : State) :
    (waveformBefore c).foldl applyOp s = { s with mode := .partialRefresh, trace := s.trace ++ waveformEvents c } := by
  rw [waveformBefore, register_lut]
  rfl

/-- What the partial branch does between its two waits (R108 to R111). -/
def optionBefore (c : Cfg) : List SeqOp :=
  displayOptionSeq c ++ borderSeq c ++ updateCtrlSeq c ++ refreshBefore

theorem optionBefore_noWait (c : Cfg) : ∀ op ∈ optionBefore c, op ≠ .wait := by
  simp [optionBefore, displayOptionSeq, borderSeq, updateCtrlSeq, refreshBefore]

theorem foldl_optionBefore (c : Cfg) (s : State) :
    (optionBefore c).foldl applyOp s = { s with phase := .refreshing, trace := s.trace ++ partialEvents c } := by
  simp [optionBefore, displayOptionSeq, borderSeq, updateCtrlSeq, refreshBefore, applyOp, State.emit, partialEvents, register,
    sendCommand, sendData, Config.optLen]

/-- What follows the waveform wait, with the write of RES.STATUS. -/
def afterWaveform (c : Cfg) : List SeqOp :=
  displayOptionSeq c ++ borderSeq c ++ updateCtrlSeq c ++ refreshSeq ++ [SeqOp.status .ok]

/-- What follows the waveform wait, cut at the refresh wait. -/
theorem afterWaveform_cut (c : Cfg) :
    afterWaveform c = optionBefore c ++ SeqOp.wait :: [SeqOp.phase .idle, SeqOp.status .ok] := rfl

/-- `init(MODE_PARTIAL)` once the waveform is sent and its wait too has answered Idle: still phase ModeConfigured. -/
def waveformSent (s : State) : State :=
  { s.consumeAnswer.consumeAnswer with
    phase := .modeConfigured, mode := .partialRefresh, win := some (initWindow s.cfg), cur := none,
    latch := some (.init s.cfg.modePartial),
    trace := s.trace ++ resetEvents ++ [.poll .idle] ++ initWindowEvents s.cfg ++ waveformEvents s.cfg ++ [.poll .idle] }

section Partial

variable {s : State} (hin : inRange s.cfg.modePartial = true) (hne : s.cfg.modePartial ≠ s.cfg.modeFull)
  (hr : s.nextAnswer = .idle)
include hin hne hr

/-- `init(MODE_PARTIAL)` cut at its waveform wait. -/
theorem exec_initPartial_windowSent :
    exec (.init s.cfg.modePartial) s = .next (runSeq 0 (waveformBefore s.cfg ++ SeqOp.wait :: afterWaveform s.cfg)
      (windowSent s s.cfg.modePartial)) := by
  rw [exec_init_windowSent hin (.inr rfl) hr, modeBranch, if_neg hne]
  rfl

/-- `init(MODE_PARTIAL)` after its waveform wait. -/
theorem exec_initPartial_waveformSent (hr' : s.consumeAnswer.nextAnswer = .idle) :
    exec (.init s.cfg.modePartial) s = .next (runSeq 0 (afterWaveform s.cfg) (waveformSent s)) := by
  rw [exec_initPartial_windowSent hin hne hr, runSeq_until_idle (waveformBefore_noWait s.cfg), foldl_waveformBefore]
  case hr => exact hr'
  rfl

end Partial

/-- Settles O12: after the waveform (`exec_initPartial_waveformSent`) the last wait answers Idle too, and two items end the
operation. -/
theorem initPartialCompletes : Obligations.InitPartialCompletes := by
  intro s hin hne hreset hwaveform hrefresh
  rw [exec_initPartial_waveformSent hin hne hreset hwaveform, afterWaveform_cut, runSeq_until_idle (optionBefore_noWait s.cfg),
    foldl_optionBefore, waveformSent]
  case hr => exact hrefresh
  simp only [State.pollWith, State.emit, State.consumeAnswer_trace, resetEvents, initWindowEvents, waveformEvents, partialEvents,
    List.append_assoc, List.cons_append, List.nil_append]
  rfl

/-- Settles O14: each wait is the first of what is left of the sequence there (`stopsBusy_runSeq`): from the start, from
`windowSent`, from `waveformSent`. -/
theorem initStopsAtItsWaits : Obligations.InitStopsAtItsWaits := by
  intro s
  refine ⟨fun mode hin hmode hbusy => ?_, fun hin hne hreset => ⟨fun hbusy => ?_, fun hwaveform hbusy => ?_⟩⟩
  · have stops := stopsBusy_runSeq (s := { s with latch := some (.init mode) }) resetBefore_noWait
      (windowItems s.cfg ++ modeBranch s.cfg mode ++ [SeqOp.status .ok]) hbusy rfl
    rw [foldl_resetBefore] at stops
    rw [exec_init_cut hin hmode]
    exact stops
  · have stops := stopsBusy_runSeq (s := windowSent s s.cfg.modePartial) (waveformBefore_noWait s.cfg) (afterWaveform s.cfg)
      hbusy rfl
    rw [foldl_waveformBefore] at stops
    rw [exec_initPartial_windowSent hin hne hreset]
    exact stops
  · have stops := stopsBusy_runSeq (s := waveformSent s) (optionBefore_noWait s.cfg) [.phase .idle, .status .ok] hbusy rfl
    rw [foldl_optionBefore] at stops
    rw [exec_initPartial_waveformSent hin hne hreset hwaveform, afterWaveform_cut]
    exact stops

/-! ### Outside phase Idle (R151) -/

/-- Settles O56: a request but `init` has no effect there that starts a sequence; the others touch RES, the SEQ flag and one
buffer. -/
theorem onlyInitLeavesARefusingPhase : Obligations.OnlyInitLeavesARefusingPhase := by
  intro s t i hphase hrequest hinit hexec
  cases exec_request hrequest hexec with
  | status st _ => exact ⟨rfl, rfl, rfl, rfl, rfl⟩
  | refused _ => exact ⟨rfl, rfl, rfl, rfl, rfl⟩
  | started ops _ hstart _ =>
    obtain hidle | ⟨mode, rfl⟩ := hstart
    · exact absurd hidle hphase
    · exact absurd rfl (hinit mode)
  | drawn b m r _ _ => exact ⟨State.setMem_phase .., State.setMem_mode .., State.setMem_win .., State.setMem_cur ..,
      State.setMem_trace ..⟩

/-! ### The landscape transform's map (R148) -/

/-- The stream position at which the landscape transform sends byte `k`: the inverse of `landscapeIndex`. -/
def landscapePosition (c : Cfg) (k : Nat) : Nat :=
  k % c.hPx * c.wb + (c.wb - 1 - k / c.hPx)

/-- A two-digit number: its digits, and that it lies below the product of the bases. -/
theorem digits_of_lt {m n q r : Nat} (hq : q < m) (hr : r < n) :
    (q * n + r) / n = q ∧ (q * n + r) % n = r ∧ q * n + r < m * n := by
  have hn : 0 < n := Nat.zero_lt_of_lt hr
  have hdiv : (q * n + r) / n = q := by rw [Nat.mul_comm, Nat.mul_add_div hn, Nat.div_eq_of_lt hr, Nat.add_zero]
  exact ⟨hdiv, Nat.mul_add_mod_of_lt hr, (Nat.div_lt_iff_lt_mul hn).1 (hdiv.trans_lt hq)⟩

theorem landscapeIndex_inverse {c : Cfg} (hl : c.legal = true) {p : Nat} (hp : p < c.fbLen) :
    landscapeIndex c p < c.fbLen ∧ landscapePosition c (landscapeIndex c p) = p := by
  obtain ⟨-, hwb, -⟩ := Cfg.legal_wPx hl
  have hrow : p / c.wb < c.hPx := Nat.div_lt_of_lt_mul hp
  have hcol : p % c.wb < c.wb := Nat.mod_lt _ hwb
  obtain ⟨hdiv, hmod, hlt⟩ := digits_of_lt (Nat.sub_one_sub_lt_of_lt hcol) hrow
  have hback : c.wb - 1 - (c.wb - 1 - p % c.wb) = p % c.wb := Nat.sub_sub_self (Nat.le_sub_one_of_lt hcol)
  refine ⟨hlt, ?_⟩
  rw [landscapePosition, landscapeIndex, hmod, hdiv, hback, Nat.div_add_mod']

theorem landscapePosition_inverse {c : Cfg} (hl : c.legal = true) {k : Nat} (hk : k < c.fbLen) :
    landscapePosition c k < c.fbLen ∧ landscapeIndex c (landscapePosition c k) = k := by
  obtain ⟨-, -, hh⟩ := Cfg.legal_wPx hl
  have hcol : k / c.hPx < c.wb := (Nat.div_lt_iff_lt_mul hh).2 hk
  have hrow : k % c.hPx < c.hPx := Nat.mod_lt _ hh
  obtain ⟨hdiv, hmod, hlt⟩ := digits_of_lt hrow (Nat.sub_one_sub_lt_of_lt hcol)
  have hback : c.wb - 1 - (c.wb - 1 - k / c.hPx) = k / c.hPx := Nat.sub_sub_self (Nat.le_sub_one_of_lt hcol)
  refine ⟨hlt.trans_eq (Nat.mul_comm ..), ?_⟩
  rw [landscapeIndex, landscapePosition, hmod, hdiv, hback, Nat.div_add_mod']

/-- Settles O41: `landscapePosition` is the map's inverse on both sides. -/
theorem landscapeTransformIsABijection : Obligations.LandscapeTransformIsABijection := by
  intro c hl
  refine ⟨fun p hp => (landscapeIndex_inverse hl hp).1, fun p hp q hq h => ?_,
    fun k hk => ⟨_, landscapePosition_inverse hl hk⟩⟩
  rw [← (landscapeIndex_inverse hl hp).2, h, (landscapeIndex_inverse hl hq).2]

end Sys2Proof.Machine
end

section
/-!
PROOFS. The statements of 42_frame_buffer.md: the clipped rectangle is the loop over all its pixels (R171), and what each of the four buffer
requests draws (R170 to R174).
-/

namespace Sys2Proof.Machine

/-! ### The clipped rectangle is the loop (R171) -/

/-- A view of the value looped over that follows every round follows the loop. -/
theorem repeatUp_hom {α β : Type} (view : α → β) {f : Nat → α → α} {g : Nat → β → β}
    (h : ∀ i v, view (f i v) = g i (view v)) (n : Nat) (v : α) : view (repeatUp n f v) = repeatUp n g (view v) := by
  induction n with
  | zero => rfl
  | succ n ih => rw [repeatUp, h, ih, repeatUp]

/-- Rounds at the positions lo, …, lo + len − 1 may be left out where nothing happens: outside [0, bound). -/
theorem repeatUp_clip {α : Type} (lo len : Int) (bound : Nat) (f : Int → α → α)
    (hout : ∀ (p : Int) v, ¬(0 ≤ p ∧ p < bound) → f p v = v) (v : α) :
    repeatUp len.toNat (fun i => f (lo + i)) v = repeatUp (clipLen lo len bound) (fun i => f (max lo 0 + i)) v := by
  have clip_toNat : clipLen lo len bound = clipLen lo len.toNat bound := by
    unfold clipLen
    omega
  rw [clip_toNat]
  induction len.toNat with
  | zero =>
    have empty : clipLen lo (0 : Nat) bound = 0 := by
      unfold clipLen
      omega
    rw [empty]
    rfl
  | succ n ih =>
    rw [repeatUp, ih]
    by_cases hin : 0 ≤ lo + n ∧ lo + n < bound
    · have more : clipLen lo (n + 1 : Nat) bound = clipLen lo n bound + 1 := by
        unfold clipLen
        omega
      have last : max lo 0 + (clipLen lo n bound : Int) = lo + n := by
        unfold clipLen
        omega
      rw [more, repeatUp, last]
    · have same : clipLen lo (n + 1 : Nat) bound = clipLen lo n bound := by
        unfold clipLen
        omega
      rw [hout _ _ hin, same]

/-- A painter that does nothing outside the buffer may be run over the clipped rectangle only: no row outside matters, and no pixel
outside within a row. -/
theorem loop_eq_overClip {α : Type} {c : Cfg} {b : Buf} (x y w h : Int) {paint : Int → Int → α → α}
    (hout : ∀ px py v, inside c b px py = false → paint px py v = v) (v : α) :
    repeatUp h.toNat (fun j => repeatUp w.toNat fun i => paint (x + i) (y + j)) v = overClip c b x y w h paint v := by
  have outside : ∀ (px py : Int) v, ¬(0 ≤ px ∧ px < c.width b) ∨ ¬(0 ≤ py ∧ py < c.height b) → paint px py v = v := by
    intro px py v hp
    refine hout px py v ?_
    rw [Bool.eq_false_iff, Ne, inside_iff]
    omega
  have rowOutside : ∀ (py : Int) v, ¬(0 ≤ py ∧ py < c.height b) → repeatUp w.toNat (fun i => paint (x + i) py) v = v :=
    fun py v hp => repeatUp_keeps (· = v) _ _ _ (fun i u _ hu => (outside (x + i) py u (.inr hp)).trans hu) rfl
  have rowClip : ∀ py, repeatUp w.toNat (fun i => paint (x + i) py)
      = repeatUp (clipLen x w (c.width b)) fun i => paint (max x 0 + i) py := fun py =>
    funext (repeatUp_clip x w _ (fun px => paint px py) fun px v hp => outside px py v (.inl hp))
  rw [repeatUp_clip y h _ (fun py => repeatUp w.toNat fun i => paint (x + i) py) rowOutside, overClip]
  simp only [rowClip]

/-- What `putPixel` does to the buffer, whatever the answer so far. -/
def putMem (c : Cfg) (b : Buf) (color : Bool) (x y : Int) (m : Memory) : Memory :=
  (putPixel c b x y color ⟨m, true⟩).mem

theorem putMem_outside {c : Cfg} {b : Buf} {color : Bool} (x y : Int) (m : Memory) (h : inside c b x y = false) :
    putMem c b color x y m = m := by
  rw [putMem, putPixel_outside h]

theorem mem_putPixel (c : Cfg) (b : Buf) (x y : Int) (color : Bool) (v : Canvas) :
    (putPixel c b x y color v).mem = putMem c b color x y v.mem := by
  cases h : inside c b x y with
  | true => simp only [putMem, putPixel, h, if_true]
  | false => rw [putMem_outside _ _ _ h, putPixel_outside h]

theorem putPixel_allIn (c : Cfg) (b : Buf) (x y : Int) (color : Bool) (v : Canvas) :
    (putPixel c b x y color v).allIn = true ↔ v.allIn = true ∧ inside c b x y = true := by
  cases h : inside c b x y with
  | true => simp [putPixel, h]
  | false => simp [putPixel_outside h]

/-- A loop's answer is that of all its rounds. -/
theorem repeatUp_allIn {P : Nat → Prop} {f : Nat → Canvas → Canvas} (h : ∀ i v, (f i v).allIn = true ↔ v.allIn = true ∧ P i)
    (n : Nat) (v : Canvas) : (repeatUp n f v).allIn = true ↔ v.allIn = true ∧ ∀ i < n, P i := by
  induction n with
  | zero => simp [repeatUp]
  | succ n ih => rw [repeatUp, h, ih, and_assoc, Nat.forall_lt_succ_right]

/-- The pixels (x + i, y + j) of the loop are those of the rectangle. -/
theorem forall_loop_iff_inRect (x y w h : Int) (P : Int → Int → Prop) :
    (∀ j < h.toNat, ∀ i < w.toNat, P (x + i) (y + j)) ↔ ∀ px py, inRect x y w h px py → P px py := by
  unfold inRect
  constructor
  · intro hP px py hp
    have hx : x + ((px - x).toNat : Int) = px := by omega
    have hy : y + ((py - y).toNat : Int) = py := by omega
    rw [← hx, ← hy]
    exact hP _ (by omega) _ (by omega)
  · intro hP j hj i hi
    exact hP _ _ (by omega)

theorem rectLoop_allIn (c : Cfg) (b : Buf) (x y w h : Int) (color : Bool) (v : Canvas) :
    (rectLoop c b x y w h color v).allIn = true ↔ v.allIn = true ∧ rectInside c b x y w h = true := by
  rw [rectInside_iff, ← forall_loop_iff_inRect]
  exact repeatUp_allIn (fun j v => repeatUp_allIn (fun i v => putPixel_allIn c b (x + i) (y + j) color v) _ v) _ v

theorem rectLoop_mem (c : Cfg) (b : Buf) (x y w h : Int) (color : Bool) (v : Canvas) :
    (rectLoop c b x y w h color v).mem =
      repeatUp h.toNat (fun j => repeatUp w.toNat fun i => putMem c b color (x + i) (y + j)) v.mem :=
  repeatUp_hom Canvas.mem
    (fun j v => repeatUp_hom Canvas.mem (fun i v => mem_putPixel c b (x + i) (y + j) color v) _ v) _ v

/-- Painting over the clipped rectangle is itself such a loop, over the rectangle left after clipping. -/
theorem overClip_putPixel (c : Cfg) (b : Buf) (x y w h : Int) (color : Bool) (v : Canvas) :
    overClip c b x y w h (fun px py => putPixel c b px py color) v =
      rectLoop c b (max x 0) (max y 0) (clipLen x w (c.width b)) (clipLen y h (c.height b)) color v := rfl

/-- The rectangle left after clipping lies inside. -/
theorem rectInside_clip (c : Cfg) (b : Buf) (x y w h : Int) :
    rectInside c b (max x 0) (max y 0) (clipLen x w (c.width b)) (clipLen y h (c.height b)) = true := by
  rw [rectInside_iff]
  intro px py hp
  rw [inside_iff]
  unfold inRect clipLen at hp
  omega

theorem rect_allIn (c : Cfg) (b : Buf) (x y w h : Int) (color : Bool) (v : Canvas) :
    (rect c b x y w h color v).allIn = true ↔ v.allIn = true ∧ rectInside c b x y w h = true := by
  rw [rect, Bool.and_eq_true, overClip_putPixel, rectLoop_allIn, rectInside_clip, and_iff_left rfl]

theorem rect_mem (c : Cfg) (b : Buf) (x y w h : Int) (color : Bool) (v : Canvas) :
    (rect c b x y w h color v).mem = (rectLoop c b x y w h color v).mem :=
  calc (rect c b x y w h color v).mem
      = overClip c b x y w h (putMem c b color) v.mem := rectLoop_mem c b (max x 0) (max y 0) _ _ color v
    _ = (rectLoop c b x y w h color v).mem := by rw [rectLoop_mem, loop_eq_overClip x y w h putMem_outside]

/-- Settles O33: both write the pixels inside in the same order (`rect_mem`) and answer the fitting test. -/
theorem clippedRectIsTheLoop : Obligations.ClippedRectIsTheLoop := by
  intro c b x y w h color v
  have hallIn := Bool.eq_iff_iff.2 ((rect_allIn c b x y w h color v).trans (rectLoop_allIn c b x y w h color v).symm)
  exact congrArg₂ Canvas.mk (rect_mem c b x y w h color v) hallIn

/-! ### The next state of a drawing request -/

/-- A finished drawing changes its buffer and RES.STATUS alone. -/
theorem State.drawn_eq (s : State) (b : Buf) (v : Canvas) :
    s.drawn b v = { s.setMem b v.mem with res := { s.res with status := drawStatus v.allIn } } := by
  rw [State.drawn, State.setStatus, State.setMem_res]

@[simp] theorem State.drawn_cfg (s : State) (b : Buf) (v : Canvas) : (s.drawn b v).cfg = s.cfg :=
  State.setMem_cfg s b v.mem

@[simp] theorem State.drawn_mem (s : State) (b : Buf) (v : Canvas) : (s.drawn b v).mem b = v.mem := by
  rw [State.drawn, State.setStatus_mem, State.setMem_mem]

/-- An accepted `fillRect` paints its rectangle (R171). -/
theorem exec_fillRect_of_accepts {s : State} {b x y w h color : Int}
    (haccepts : accepts s.cfg (.fillRect b x y w h color) = true) :
    exec (.fillRect b x y w h color) s =
      .next (s.drawn (bufOf b) (rect s.cfg (bufOf b) x y w h (colorBit color) (s.canvas (bufOf b)))) :=
  congrArg Host.Outcome.next (if_pos haccepts)

/-- An accepted `fill` writes every byte (R172). -/
theorem exec_fill_of_accepts {s : State} {b color : Int} (haccepts : accepts s.cfg (.fill b color) = true) :
    exec (.fill b color) s =
      .next (s.drawn (bufOf b) ⟨Memory.uniform s.cfg.fbLen (if colorBit color then 0xFF#8 else 0x00#8), true⟩) :=
  congrArg Host.Outcome.next (if_pos haccepts)

/-- What a `blit` whose source has no bad answer leaves of a canvas (R173). -/
def blitted (c : Cfg) (b : Buf) (src : PixelSource) (x y w h : Int) (v : Canvas) : Canvas :=
  { blitPixels c b src x y w h (w.toNat * h.toNat) v with allIn := rectInside c b x y w h }

/-- An accepted `blit` whose source answers 0 or 1 throughout runs to its end (R173, R225). -/
theorem exec_blit_of_accepts {s : State} {b : Int} {src : PixelSource} {x y w h : Int}
    (haccepts : accepts s.cfg (.blit b src x y w h) = true)
    (hgood : ∀ n < w.toNat * h.toNat, sourceAt src n = 0#8 ∨ sourceAt src n = 1#8) :
    exec (.blit b src x y w h) s =
      .next (s.drawn (bufOf b) (blitted s.cfg (bufOf b) src x y w h (s.canvas (bufOf b)))) := by
  refine congrArg Host.Outcome.next ((if_pos haccepts).trans ?_)
  rw [firstBad_eq_none hgood]
  rfl

/-! ### What a painted canvas shows -/

section Reading

variable {s : State} {b : Buf} {P : Int → Int → Prop} {color : Int → Int → Bool} {v : Canvas}

/-- The pixels of the state whose buffer was painted. -/
theorem Painted.getPixel (hv : Painted s.cfg b P color (s.canvas b) v) {px py : Int} (hin : inside s.cfg b px py = true) :
    (P px py → (s.setMem b v.mem).getPixel b px py = some (color px py)) ∧
      (¬P px py → (s.setMem b v.mem).getPixel b px py = s.getPixel b px py) := by
  rw [getPixel_setMem s b v.mem px py hin, getPixel_inside s b px py hin]
  exact ⟨fun hp => congrArg some (hv.paints px py hin hp), fun hp => congrArg some (hv.keeps px py hin hp)⟩

/-- The status of a painted rectangle (R65, R224). -/
theorem Painted.rectStatus {x y w h : Int} (hv : Painted s.cfg b (inRect x y w h) color (s.canvas b) v) :
    (rectFits s.cfg b x y w h → drawStatus v.allIn = .ok) ∧
      (¬rectFits s.cfg b x y w h → drawStatus v.allIn = .oobRejected) := by
  refine drawStatus_cases (hv.allIn.trans ?_)
  rw [rectFits_iff, rectInside_iff]
  exact and_iff_right rfl

end Reading

/-! ### setPixel, fillRect and fill (R170 to R172) -/

/-- Settles O30: the one byte of `memByte_putPixel`, and of it the one bit of `getLsbD_replaceBit`. -/
theorem setPixelCompletes : Obligations.SetPixelCompletes := by
  intro s b x y color haccepts hin
  have allIn := (putPixel_allIn s.cfg (bufOf b) x y (colorBit color) (s.canvas (bufOf b))).2 ⟨rfl, hin⟩
  refine ⟨(putPixel s.cfg (bufOf b) x y (colorBit color) (s.canvas (bufOf b))).mem, ?_, fun k j => ?_⟩
  · rw [exec_setPixel_of_accepts haccepts, State.drawn_eq, allIn]
    rfl
  · rw [memByte_putPixel hin]
    by_cases hk : k = pixelByte s.cfg (bufOf b) x.toNat y.toNat
    · simp only [hk, if_true, true_and]
      exact getLsbD_replaceBit _ _ _ _ (pixelBit_lt _ _ _)
    · simp only [hk, if_false, false_and]
      rfl

/-- Settles O34: the rectangle painted (`rect_painted`), read pixel by pixel and byte by byte. -/
theorem fillRectCompletes : Obligations.FillRectCompletes := by
  intro s b x y w h color hl haccepts
  have painted := rect_painted hl (bufOf b) x y w h (colorBit color) (s.canvas (bufOf b))
  obtain ⟨fits, clipped⟩ := painted.rectStatus
  exact ⟨_, _, by rw [exec_fillRect_of_accepts haccepts, State.drawn_eq], fits, clipped,
    fun _ _ hin => painted.getPixel hin, painted.bytes⟩

theorem accepts_fill {c : Cfg} {b color : Int} (hb : b = 0 ∨ b = 1) (hcolor : color = 0 ∨ color = 1) :
    accepts c (.fill b color) = true := by
  simpa [accepts, isSelector_of_eq hb, isColor] using hcolor

/-- Settles O35: what `Memory.uniform` holds below FB_LEN. -/
theorem fillCompletes : Obligations.FillCompletes := by
  intro s b color hb hcolor
  refine ⟨_, by rw [exec_fill_of_accepts (accepts_fill hb hcolor), State.drawn_eq]; rfl, fun k hk => ?_⟩
  rw [Memory.find_uniform, if_pos hk]
  simp only [colorBit, decide_eq_true_eq]

/-! ### blit (R173) -/

/-- The row-major point of a pixel of the rectangle is one of its w × h points. -/
theorem rowMajor_lt {x y w h px py : Int} (hp : inRect x y w h px py) :
    (py - y).toNat * w.toNat + (px - x).toNat < w.toNat * h.toNat := by
  obtain ⟨hx, hx', hy, hy'⟩ := hp
  have hrow : (py - y).toNat < h.toNat := by omega
  have hcol : (px - x).toNat < w.toNat := by omega
  rw [Nat.mul_comm w.toNat]
  exact (digits_of_lt hrow hcol).2.2

/-- A blit without a bad answer paints its rectangle in the colours of its source. -/
theorem blitted_painted {c : Cfg} (hc : c.legal = true) (b : Buf) (src : PixelSource) (x y w h : Int) {v : Canvas}
    (hv : v.allIn = true) :
    Painted c b (inRect x y w h)
      (fun px py => decide (sourceAt src ((py - y).toNat * w.toNat + (px - x).toNat) = 1#8)) v (blitted c b src x y w h v) := by
  have hp := blitPixels_painted hc b src x y w h (w.toNat * h.toNat) v
  exact {
    paints := fun px py hin hr => hp.paints px py hin ⟨rowMajor_lt hr, hr, hin⟩
    keeps := fun px py hin hr => hp.keeps px py hin fun hn => hr hn.2.1
    bytes := fun k hk => hp.bytes k fun px py hin hn => hk px py hin hn.2.1
    allIn := (rectInside_iff c b x y w h).trans (and_iff_right hv).symm }

/-- Settles O36: the blitted rectangle (`blitted_painted`), read pixel by pixel and byte by byte. -/
theorem blitCompletes : Obligations.BlitCompletes := by
  intro s b src x y w h hl haccepts hgood
  have painted := blitted_painted hl (bufOf b) src x y w h (v := s.canvas (bufOf b)) rfl
  obtain ⟨fits, clipped⟩ := painted.rectStatus
  exact ⟨_, _, by rw [exec_blit_of_accepts haccepts hgood, State.drawn_eq], fits, clipped,
    fun _ _ hin => painted.getPixel hin, painted.bytes⟩

/-! ### One ink pixel on a background buffer (R174) -/

/-- A finished drawing is read in its buffer: RES is no part of a pixel. -/
theorem getPixel_drawn (s : State) (b : Buf) (v : Canvas) (px py : Int) :
    (s.drawn b v).getPixel b px py = (s.setMem b v.mem).getPixel b px py := by
  simp only [State.getPixel, State.readByte, State.drawn_mem, State.drawn_cfg, State.setMem_mem, State.setMem_cfg]

/-- A buffer filled with 0xFF is all background. -/
theorem getPixel_filled {s : State} (hl : s.cfg.legal = true) {b : Buf} {px py : Int} (hin : inside s.cfg b px py = true) :
    (s.drawn b ⟨Memory.uniform s.cfg.fbLen 0xFF#8, true⟩).getPixel b px py = some true := by
  obtain ⟨hx, hy, hx', hy'⟩ := (inside_iff ..).1 hin
  have hbyte : pixelByte s.cfg b px.toNat py.toNat < s.cfg.fbLen := pixelByte_lt hl (by omega) (by omega)
  have ones : 0xFF#8 = BitVec.allOnes 8 := rfl
  rw [getPixel_drawn, getPixel_setMem s b _ px py hin, pixelOf, memByte, Memory.find_uniform, if_pos hbyte,
    Option.getD_some, ones, BitVec.getLsbD_allOnes, decide_eq_true (pixelBit_lt ..)]

/-- One ink pixel painted on a background buffer: it alone reads ink. -/
theorem inkPixel_reads {t : State} {b : Buf} {x y : Int} {color : Int → Int → Bool} {v : Canvas}
    (background : ∀ px py, inside t.cfg b px py = true → t.getPixel b px py = some true)
    (hv : Painted t.cfg b (fun px py => px = x ∧ py = y) color (t.canvas b) v) (ink : color x y = false)
    {px py : Int} (hin : inside t.cfg b px py = true) :
    (t.drawn b v).getPixel b px py = some (decide (¬(px = x ∧ py = y))) := by
  rw [getPixel_drawn]
  by_cases hp : px = x ∧ py = y
  · rw [(hv.getPixel hin).1 hp, decide_eq_false (not_not_intro hp)]
    obtain ⟨rfl, rfl⟩ := hp
    rw [ink]
  · rw [(hv.getPixel hin).2 hp, background px py hin, decide_eq_true hp]

/-- Drawing one pixel that lies inside ends with OK. -/
theorem inkPixel_status {t : State} {b : Buf} {x y : Int} {color : Int → Int → Bool} {v : Canvas}
    (hv : Painted t.cfg b (fun px py => px = x ∧ py = y) color (t.canvas b) v) (hin : inside t.cfg b x y = true) :
    (t.drawn b v).res.status = .ok := by
  have allIn : v.allIn = true := hv.allIn.2 ⟨rfl, by rintro px py ⟨rfl, rfl⟩; exact hin⟩
  rw [State.drawn_eq, allIn]
  rfl

theorem inRect_one_iff (x y px py : Int) : inRect x y 1 1 px py ↔ px = x ∧ py = y := by
  unfold inRect
  omega

/-- Settles O38: `fill` leaves a background buffer, and either way of drawing paints the one pixel (`inkPixel_reads`). -/
theorem inkPixelReadsBack : Obligations.InkPixelReadsBack := by
  intro s b x y src hl hb hx hy hin hsrc
  set t := s.drawn (bufOf b) ⟨Memory.uniform s.cfg.fbLen 0xFF#8, true⟩
  have hcfg : t.cfg = s.cfg := State.drawn_cfg ..
  have background : ∀ px py, inside t.cfg (bufOf b) px py = true → t.getPixel (bufOf b) px py = some true :=
    fun px py h => getPixel_filled hl (hcfg ▸ h)
  rw [← hcfg] at hl hin ⊢
  have blitPaints := (blitted_painted hl (bufOf b) src x y 1 1 (v := t.canvas (bufOf b)) rfl).congr (inRect_one_iff x y)
  have pixelPaints := putPixel_painted hl (bufOf b) x y (fun _ _ => colorBit 0) (t.canvas (bufOf b))
  have one : inRange 1 = true := rfl
  have good : ∀ n < (1 : Int).toNat * (1 : Int).toNat, sourceAt src n = 0#8 ∨ sourceAt src n = 1#8 := by
    intro n hn
    obtain rfl : n = 0 := by simpa using hn
    exact .inl hsrc
  refine ⟨t, _, _, exec_fill_of_accepts (accepts_fill hb (.inr rfl)), exec_blit_of_accepts ?_ good,
    exec_setPixel_of_accepts ?_, inkPixel_status blitPaints hin, inkPixel_status pixelPaints hin,
    fun px py hp => ⟨inkPixel_reads background blitPaints ?_ hp, inkPixel_reads background pixelPaints rfl hp⟩⟩
  · simp [accepts, isSelector_of_eq hb, hx, hy, one]
  · simp [accepts, isSelector_of_eq hb, hx, hy, isColor]
  · simp [hsrc]

end Sys2Proof.Machine
end

section
/-!
PROOFS. The statements of 43_text_engine.md: what the two text requests draw (R190 to R194), the scale search (R195, R198, R199), lines, trim
and words (R191, R196, R197), and the greedy wrap (R197).
-/

namespace Sys2Proof.Machine

/-! ### scaledTextBlit (R190 to R193) -/

/-- An accepted `scaledTextBlit` paints its text (R192). -/
theorem exec_stext_of_accepts {s : State} {b : Int} {text : Line} {x y scale color : Int}
    (haccepts : accepts s.cfg (.stext b text x y scale color) = true) :
    exec (.stext b text x y scale color) s =
      .next (s.drawn (bufOf b) (stb s.cfg (bufOf b) text x y scale (colorBit color) (s.canvas (bufOf b)))) :=
  congrArg Host.Outcome.next (if_pos haccepts)

/-- Settles O43: the text painted (`stb_painted`), read pixel by pixel and byte by byte; it fits when all it covers lies inside. -/
theorem scaledTextCompletes : Obligations.ScaledTextCompletes := by
  intro s b text x y scale color hl haccepts
  have painted := stb_painted hl (bufOf b) text x y scale (colorBit color) (s.canvas (bufOf b))
  have allIn := painted.allIn.trans ((and_iff_right rfl).trans (textFits_iff ..).symm)
  obtain ⟨fits, clipped⟩ := drawStatus_cases allIn
  exact ⟨_, _, by rw [exec_stext_of_accepts haccepts, State.drawn_eq], fits, clipped,
    fun _ _ hin => painted.getPixel hin, painted.bytes⟩

/-- The operand check looks at the scale's range only (R225). -/
theorem accepts_stext_scale {c : Cfg} {b : Int} {text : Line} {x y scale color : Int} (h : inRange scale = true) :
    accepts c (.stext b text x y scale color) = accepts c (.stext b text x y 1 color) := by
  have one : inRange 1 = true := rfl
  simp only [accepts, h, one]

/-- Settles O44: both scales are accepted alike, and both paint at the effective scale 1. -/
theorem scaleAtMostOneIsUnscaled : Obligations.ScaleAtMostOneIsUnscaled := by
  intro s b text x y scale color hrange hscale
  have effective : max scale 1 = max 1 1 := max_eq_right hscale
  simp only [exec, execStext, accepts_stext_scale hrange, stb, effective]

/-! ### autoFitText (R194) -/

/-- What step 6 of `autoFitText` leaves of the buffer's canvas when it has chosen scale `S` and `lines` (R194). -/
def fitted (s : State) (b : Buf) (x y : Int) (color center cv : Bool) (S : Nat) (lines : List Line) : Canvas :=
  paintFitted s.cfg b x (blockTop s.cfg b y S lines.length cv) S color center 0 lines (s.canvas b)

/-- An accepted `autoFitText` writes its fit to RES and paints the fitted lines (R194). -/
theorem exec_autofit_of_accepts {s : State} {b : Int} {text : Line} {x y color : Int} {cap : Option Int} {center cv : Bool}
    {S : Nat} {lines : List Line} (haccepts : accepts s.cfg (.autofit b text x y color cap center cv) = true)
    (hfit : fitText s.cfg text cap = (S, lines)) :
    exec (.autofit b text x y color cap center cv) s =
      .next ((s.setFit (S, lines)).drawn (bufOf b) (fitted s (bufOf b) x y (colorBit color) center cv S lines)) :=
  congrArg Host.Outcome.next ((if_pos haccepts).trans (by rw [hfit]; rfl))

/-- A drawing finished after a fit changes its buffer and RES alone. -/
theorem State.setFit_drawn_eq (s : State) (S : Nat) (lines : List Line) (b : Buf) (v : Canvas) :
    (s.setFit (S, lines)).drawn b v =
      { s.setMem b v.mem with res := { status := drawStatus v.allIn, scale := S, lines := lines } } := by
  rw [State.drawn, State.setFit_setMem]
  rfl

/-- Pixel (px, py) is covered by a fitted line, the block of lines standing at `top` (R194, step 6). -/
def fitCovers (c : Cfg) (x : Int) (center : Bool) (S : Nat) (lines : List Line) (top px py : Int) : Prop :=
  ∃ (li : Nat) (line : Line), lines[li]? = some line ∧
    textCovers c line (lineLeft c x center S line) (top + li * 8 * S) S px py

/-- Every fitted line fits exactly when every covered pixel lies inside. -/
theorem forall_textFits_iff (c : Cfg) (b : Buf) (x : Int) (center : Bool) (S : Nat) (lines : List Line) (top : Int) :
    (∀ (li : Nat) (line : Line), lines[li]? = some line →
      textFits c b line (lineLeft c x center S line) (top + li * 8 * S) S) ↔
    ∀ px py, fitCovers c x center S lines top px py → inside c b px py = true := by
  simp only [textFits_iff]
  constructor
  · rintro h px py ⟨li, line, hline, hp⟩
    exact h li line hline px py hp
  · intro h li line hline px py hp
    exact h px py ⟨li, line, hline, hp⟩

/-- The fitted lines are painted where they cover; a chosen scale is at least 1, so it is the effective one (R193). -/
theorem fitted_painted {s : State} (hl : s.cfg.legal = true) (b : Buf) (x y : Int) (color center cv : Bool) {S : Nat}
    (hS : 1 ≤ S) (lines : List Line) :
    Painted s.cfg b (fitCovers s.cfg x center S lines (blockTop s.cfg b y S lines.length cv)) (fun _ _ => color) (s.canvas b)
      (fitted s b x y color center cv S lines) := by
  refine (paintFitted_painted hl b x _ S hS color center 0 lines (s.canvas b)).congr fun px py => ?_
  simp only [fitCovers, Nat.zero_add]

/-- Settles O45: the fitted lines painted (`fitted_painted`), read pixel by pixel and byte by byte. -/
theorem autoFitCompletes : Obligations.AutoFitCompletes := by
  intro s b text x y color cap center cv hl haccepts
  rcases hfit : fitText s.cfg text cap with ⟨S, lines⟩
  have hS : 1 ≤ S := by simpa only [hfit] using fitText_pos s.cfg text cap
  have painted := fitted_painted hl (bufOf b) x y (colorBit color) center cv hS lines
  have allIn := painted.allIn.trans ((and_iff_right rfl).trans (forall_textFits_iff ..).symm)
  obtain ⟨fits, clipped⟩ := drawStatus_cases allIn
  refine ⟨S, lines, _, _, blockTop s.cfg (bufOf b) y S lines.length cv, rfl, ?_, ?_,
    by rw [exec_autofit_of_accepts haccepts hfit, State.setFit_drawn_eq], fits, ?_,
    fun _ _ hin => painted.getPixel hin, painted.bytes⟩
  · rintro rfl
    rfl
  · rintro rfl
    rfl
  · rintro ⟨li, line, hline, hout⟩
    exact clipped fun hall => hout (hall li line hline)

/-! ### The scale search (R195, R198, R199) -/

/-- A rejected candidate's wrap fails or has too many lines (R198). -/
theorem candidate_eq_none {c : Cfg} {inputLines : List Line} {S : Nat} (h : candidate c inputLines S = none) {ls : List Line}
    (hwrap : wrapAll (c.txtW / (8 * S)) inputLines = some ls) : c.txtH / (8 * S) < ls.length := by
  refine Nat.lt_of_not_le fun hle => ?_
  rw [candidate_eq_some.2 ⟨hwrap, hle⟩] at h
  cases h

/-- Settles O46: what the search answers (`search_cases`), each candidate's acceptance spelled out; its candidates are the naturals up to
`maxScale`, none if that is below 1. -/
theorem fitIsTheLargestScale : Obligations.FitIsTheLargestScale := by
  intro c text cap
  unfold fitText
  obtain ⟨S, lines, hsearch, hpos, hle, hcand, hlarger⟩ | ⟨hsearch, hall⟩ :=
    search_cases c ((splitLines text).map trim) (maxScale c cap).toNat
  · obtain ⟨hwrap, hlen⟩ := candidate_eq_some.1 hcand
    refine .inl ⟨S, lines, by rw [hsearch]; rfl, hpos, by omega, hwrap, hlen, fun S' hlt hmax ls => ?_⟩
    exact candidate_eq_none (hlarger S' hlt (by omega))
  · refine .inr ⟨by rw [hsearch]; rfl, fun S' hpos hmax ls => ?_⟩
    exact candidate_eq_none (hall S' hpos (by omega))

/-! ### Pieces and words (R191, R197) -/

/-- The model's cut is the library's. -/
theorem cutAt_eq_splitOnP (sep : Byte → Bool) (p : Line) : cutAt sep p = p.splitOnP sep := by
  induction p with
  | nil => rfl
  | cons c p ih =>
    rw [List.splitOnP_cons_eq_if_modifyHead, ← ih, cutAt]
    cases hcut : cutAt sep p with
    | nil => exact absurd (ih.symm.trans hcut) (List.splitOnP_ne_nil sep p)
    | cons q qs => rfl

/-- No piece of a cut holds a separator. -/
theorem cutAt_noSep (sep : Byte → Bool) (p : Line) : ∀ q ∈ cutAt sep p, ∀ c ∈ q, sep c = false := by
  induction p with
  | nil => simp [cutAt]
  | cons d p ih =>
    rw [cutAt]
    cases hd : sep d with
    | true => simpa using ih
    | false =>
      cases hcut : cutAt sep p with
      | nil => simp [hd]
      | cons q qs =>
        rw [hcut, List.forall_mem_cons] at ih
        simpa [hd] using ih

theorem splitLines_eq_splitOn (text : Line) : splitLines text = text.splitOn 0x0A#8 := by
  rw [splitLines, cutAt_eq_splitOnP, List.splitOn_eq_splitOnP]

theorem isSpace_iff (c : Byte) : isSpace c = true ↔ isWhite c := by
  simp [isSpace, isWhite, or_assoc]

/-- A word: a non-empty run without whitespace (R197). -/
def IsWord (w : Line) : Prop :=
  w ≠ [] ∧ ∀ c ∈ w, isSpace c = false

theorem isWord_of_mem_words {p w : Line} (h : w ∈ words p) : IsWord w := by
  simp only [words, List.mem_filter, Bool.not_eq_true', List.isEmpty_eq_false_iff] at h
  obtain ⟨hcut, hne⟩ := h
  exact ⟨hne, cutAt_noSep isSpace p w hcut⟩

@[simp] theorem words_nil : words [] = [] := rfl

/-- A whitespace byte separates the words before it from those after it. -/
theorem words_append_cons (p q : Line) {c : Byte} (hc : isSpace c = true) : words (p ++ c :: q) = words p ++ words q := by
  simp only [words, cutAt_eq_splitOnP, List.splitOnP_append_cons p q hc, List.filter_append]

theorem words_space_cons (q : Line) {c : Byte} (hc : isSpace c = true) : words (c :: q) = words q :=
  words_append_cons [] q hc

/-- Leading whitespace holds no word. -/
theorem words_append_of_spaces {gap : Line} (hgap : ∀ c ∈ gap, isSpace c = true) (p : Line) : words (gap ++ p) = words p := by
  induction gap with
  | nil => rfl
  | cons c gap ih =>
    rw [List.forall_mem_cons] at hgap
    rw [List.cons_append, words_space_cons _ hgap.1, ih hgap.2]

theorem words_of_isWord {w : Line} (hw : IsWord w) : words w = [w] := by
  obtain ⟨hne, hrun⟩ := hw
  simp [words, cutAt_eq_splitOnP, List.splitOnP_eq_singleton hrun, hne]

/-- A word up to the end or to whitespace is the first word. -/
theorem words_append_of_isWord {w rest : Line} (hw : IsWord w) (hrest : ∀ c, rest.head? = some c → isSpace c = true) :
    words (w ++ rest) = w :: words rest := by
  cases rest with
  | nil => rw [List.append_nil, words_of_isWord hw, words_nil]
  | cons c rest =>
    have hc := hrest c rfl
    rw [words_append_cons w rest hc, words_of_isWord hw, words_space_cons rest hc, List.singleton_append]

/-! ### What the search starts from (R195, R191, R196, R197) -/

/-- Leading whitespace is dropped, up to a byte that is none. -/
theorem dropWhile_isSpace {before p : Line} (hbefore : ∀ c ∈ before, isSpace c = true)
    (hp : ∀ c, p.head? = some c → isSpace c = false) : (before ++ p).dropWhile isSpace = p := by
  rw [List.dropWhile_append_of_pos hbefore]
  cases p with
  | nil => rfl
  | cons c p => exact List.dropWhile_cons_of_neg (Bool.eq_false_iff.1 (hp c rfl))

/-- `trim` removes the whitespace around a piece that neither begins nor ends with any (R196). -/
theorem trim_append {before p after : Line} (hbefore : ∀ c ∈ before, isSpace c = true)
    (hafter : ∀ c ∈ after, isSpace c = true) (hhead : ∀ c, p.head? = some c → isSpace c = false)
    (hlast : ∀ c, p.getLast? = some c → isSpace c = false) : trim (before ++ p ++ after) = p := by
  cases p with
  | nil =>
    have dropped : (before ++ [] ++ after).dropWhile isSpace = [] :=
      List.dropWhile_eq_nil_iff.2 (by simpa [or_imp, forall_and] using ⟨hbefore, hafter⟩)
    rw [trim, dropped]
    rfl
  | cons c p =>
    have front : (before ++ (c :: p ++ after)).dropWhile isSpace = c :: p ++ after :=
      dropWhile_isSpace hbefore hhead
    have back : (after.reverse ++ (c :: p).reverse).dropWhile isSpace = (c :: p).reverse :=
      dropWhile_isSpace (by simpa using hafter) (by rwa [List.head?_reverse])
    rw [trim, List.append_assoc, front, List.reverse_append, back, List.reverse_reverse]

theorem maxScale_none (c : Cfg) : maxScale c none = max (min (c.txtW : Int) c.txtH / 8) 1 := by
  simp only [maxScale]
  omega

/-- Settles O47: the library's cut at line breaks, `trim_append`, and the first word of a text (`words_append_of_isWord`). -/
theorem fitInputs : Obligations.FitInputs := by
  simp only [Obligations.FitInputs, ← isSpace_iff, Bool.not_eq_true]
  refine ⟨fun c v => ⟨maxScale_none c, ?_⟩, fun text => ⟨fun p hp hmem => ?_, ?_⟩, fun before p after => trim_append,
    fun gap hgap => ?_, fun gap w rest hgap hne hrun hrest => ?_⟩
  · rw [← maxScale_none]
    rfl
  · simpa using cutAt_noSep _ text p hp _ hmem
  · rw [splitLines_eq_splitOn, List.intercalate_splitOn]
  · simpa using words_append_of_spaces hgap []
  · rw [List.append_assoc, words_append_of_spaces hgap, words_append_of_isWord ⟨hne, hrun⟩ hrest]

/-! ### The greedy wrap (R197) -/

/-- One more word is joined behind one more space. -/
theorem intercalate_concat {ws : List Line} (hws : ws ≠ []) (w : Line) :
    List.intercalate [0x20#8] (ws ++ [w]) = List.intercalate [0x20#8] ws ++ 0x20#8 :: w := by
  induction ws with
  | nil => exact absurd rfl hws
  | cons u ws ih =>
    cases ws with
    | nil => simp [List.intercalate_cons_cons]
    | cons v ws =>
      rw [List.cons_append, List.cons_append, List.intercalate_cons_cons, List.intercalate_cons_cons, ← List.cons_append,
        ih (List.cons_ne_nil v ws), ← List.append_assoc]

/-- A good output line of a wrap at `maxChars`: non-empty, short enough, its words joined by one space. -/
structure WrappedLine (maxChars : Nat) (l : Line) : Prop where
  ne_nil : l ≠ []
  length_le : l.length ≤ maxChars
  joined : List.intercalate [0x20#8] (words l) = l

theorem WrappedLine.words_ne_nil {maxChars : Nat} {l : Line} (h : WrappedLine maxChars l) : words l ≠ [] := by
  intro hnone
  refine h.ne_nil ?_
  rw [← h.joined, hnone]
  rfl

/-- A word that is short enough begins an output line. -/
theorem WrappedLine.of_isWord {maxChars : Nat} {w : Line} (hw : IsWord w) (hlen : w.length ≤ maxChars) : WrappedLine maxChars w :=
  ⟨hw.1, hlen, by rw [words_of_isWord hw, List.intercalate_singleton]⟩

theorem words_append_space_word (l : Line) {w : Line} (hw : IsWord w) : words (l ++ 0x20#8 :: w) = words l ++ [w] := by
  rw [words_append_cons l w rfl, words_of_isWord hw]

/-- A word that fits behind it may be appended to an output line. -/
theorem WrappedLine.append_word {maxChars : Nat} {l w : Line} (h : WrappedLine maxChars l) (hw : IsWord w)
    (hfits : l.length + 1 + w.length ≤ maxChars) : WrappedLine maxChars (l ++ 0x20#8 :: w) where
  ne_nil := by simp
  length_le := by
    rw [List.length_append, List.length_cons]
    omega
  joined := by rw [words_append_space_word l hw, intercalate_concat h.words_ne_nil, h.joined]

/-- The first word of `l'` does not fit behind `l`. -/
def Overflows (maxChars : Nat) (l l' : Line) : Prop :=
  ∀ w, (words l').head? = some w → maxChars < l.length + 1 + w.length

/-- `lines` is a greedy wrap of the words of the line being filled, `cur`, and the words `ws` to come. -/
structure Wraps (maxChars : Nat) (cur : Option Line) (ws lines : List Line) : Prop where
  words_eq : lines.flatMap words = cur.toList.flatMap words ++ ws
  wrapped : ∀ l ∈ lines, WrappedLine maxChars l
  greedy : lines.IsChain (Overflows maxChars)

/-- The first output line begins with the first word wrapped. -/
theorem Wraps.head?_words {maxChars : Nat} {w : Line} {ws lines : List Line} (hw : IsWord w)
    (h : Wraps maxChars (some w) ws lines) {l : Line} (hl : lines.head? = some l) : (words l).head? = some w := by
  obtain ⟨ls, rfl⟩ := List.head?_eq_some_iff.1 hl
  have hne := (h.wrapped l List.mem_cons_self).words_ne_nil
  have heads := congrArg List.head? h.words_eq
  simpa [List.head?_append_of_ne_nil _ hne, words_of_isWord hw] using heads

/-- A full line is put out before a wrap that begins with the word that did not fit behind it. -/
theorem Wraps.cons {maxChars : Nat} {cur w : Line} {ws lines : List Line} (hcur : WrappedLine maxChars cur) (hw : IsWord w)
    (hfull : maxChars < cur.length + 1 + w.length) (h : Wraps maxChars (some w) ws lines) :
    Wraps maxChars (some cur) (w :: ws) (cur :: lines) where
  words_eq := by
    rw [List.flatMap_cons, h.words_eq]
    simp [words_of_isWord hw]
  wrapped := List.forall_mem_cons.2 ⟨hcur, h.wrapped⟩
  greedy := by
    refine List.isChain_cons.2 ⟨fun l hl v hv => ?_, h.greedy⟩
    rw [h.head?_words hw hl, Option.some.injEq] at hv
    exact hv ▸ hfull

/-- The first word begins the first line. -/
theorem Wraps.of_first {maxChars : Nat} {w : Line} {ws lines : List Line} (hw : IsWord w)
    (h : Wraps maxChars (some w) ws lines) : Wraps maxChars none (w :: ws) lines where
  words_eq := by simpa [words_of_isWord hw] using h.words_eq
  wrapped := h.wrapped
  greedy := h.greedy

/-- A word appended to the line being filled is the next of its words. -/
theorem Wraps.of_append {maxChars : Nat} {cur w : Line} {ws lines : List Line} (hw : IsWord w)
    (h : Wraps maxChars (some (cur ++ 0x20#8 :: w)) ws lines) : Wraps maxChars (some cur) (w :: ws) lines where
  words_eq := by simpa [words_append_space_word cur hw] using h.words_eq
  wrapped := h.wrapped
  greedy := h.greedy

/-- What the loop of the wrap answers is a greedy wrap. -/
theorem wrapWords_wraps {maxChars : Nat} {cur : Option Line} {ws lines : List Line}
    (hcur : ∀ l ∈ cur, WrappedLine maxChars l) (hws : ∀ w ∈ ws, IsWord w) (h : wrapWords maxChars cur ws = some lines) :
    Wraps maxChars cur ws lines := by
  fun_induction wrapWords maxChars cur ws generalizing lines with
  | case1 =>
    cases h
    exact ⟨rfl, by simp, .nil⟩
  | case2 cur =>
    cases h
    exact ⟨by simp, by simpa using hcur, .singleton _⟩
  | case3 w ws hlong => cases h
  | case4 w ws hshort ih =>
    obtain ⟨hw, hws⟩ := List.forall_mem_cons.1 hws
    have begun : WrappedLine maxChars w := .of_isWord hw (Nat.le_of_not_lt hshort)
    exact (ih (by simpa using begun) hws h).of_first hw
  | case5 cur w ws hlong => cases h
  | case6 cur w ws hshort hfits ih =>
    obtain ⟨hw, hws⟩ := List.forall_mem_cons.1 hws
    have longer := (hcur cur rfl).append_word hw hfits
    exact (ih (by simpa using longer) hws h).of_append hw
  | case7 cur w ws hshort hfull ih =>
    obtain ⟨hw, hws⟩ := List.forall_mem_cons.1 hws
    have begun : WrappedLine maxChars w := .of_isWord hw (Nat.le_of_not_lt hshort)
    obtain ⟨rest, hrest, rfl⟩ := Option.map_eq_some_iff.1 h
    exact (ih (by simpa using begun) hws hrest).cons (hcur cur rfl) hw (Nat.lt_of_not_le hfull)

/-- The wrap is rejected exactly for a word that is too long. -/
theorem wrapWords_eq_none_iff (maxChars : Nat) (cur : Option Line) (ws : List Line) :
    wrapWords maxChars cur ws = none ↔ ∃ w ∈ ws, maxChars < w.length := by
  fun_induction wrapWords maxChars cur ws with
  | case1 => simp
  | case2 cur => simp
  | case3 w ws hlong => simp [hlong]
  | case4 w ws hshort ih => simp [hshort, ih]
  | case5 cur w ws hlong => simp [hlong]
  | case6 cur w ws hshort hfits ih => simp [hshort, ih]
  | case7 cur w ws hshort hfull ih => simp [hshort, ih]

theorem wrapLine_wraps {p : Line} {maxChars : Nat} {lines : List Line} (h : wrapLine p maxChars = some lines) :
    Wraps maxChars none (words p) lines :=
  wrapWords_wraps (by simp) (fun _ => isWord_of_mem_words) h

/-- Settles O48: an accepted wrap is greedy (`wrapLine_wraps`), and a word too long is all that rejects one. -/
theorem wrappedLinesFit : Obligations.WrappedLinesFit := by
  intro p maxChars
  refine ⟨fun lines h => ?_, wrapWords_eq_none_iff maxChars none (words p)⟩
  obtain ⟨-, wrapped, greedy⟩ := wrapLine_wraps h
  refine ⟨fun l hl => ?_, fun k l l' w hk hk' hw => ?_⟩
  · obtain ⟨hne, hlen, hjoined⟩ := wrapped l hl
    exact ⟨hne, hlen, hjoined⟩
  · obtain ⟨hlt, rfl⟩ := List.getElem?_eq_some_iff.1 hk'
    obtain ⟨-, rfl⟩ := List.getElem?_eq_some_iff.1 hk
    exact List.isChain_iff_getElem.1 greedy k hlt w hw

/-- Settles O49: the words of a wrap that begins with no line (`wrapLine_wraps`). -/
theorem wrapKeepsTheWords : Obligations.WrapKeepsTheWords :=
  fun _ _ _ h => (wrapLine_wraps h).words_eq

end Sys2Proof.Machine
end

section
/-!
PROOFS. The statements of 60_exceptions.md: which operands a request accepts and what a refused one does (R225, R228), a protocol operation
outside phase Idle (R223), and a blit whose source gives a bad answer (R225, R265).
-/

namespace Sys2Proof.Machine

/-! ### A blit whose source gives a bad answer (R225, R265) -/

/-- A drawing that ends with BadRequest changes its buffer and RES.STATUS alone. -/
theorem State.setMem_badRequest_eq (s : State) (b : Buf) (m : Memory) :
    (s.setMem b m).badRequest = { s.setMem b m with res := { s.res with status := .badRequest } } := by
  rw [State.badRequest, State.setStatus, State.setMem_res]

/-- An accepted `blit` whose first bad answer is at point `bad` draws the points before it and ends with BadRequest (R225). -/
theorem exec_blit_of_bad {s : State} {b : Int} {src : PixelSource} {x y w h : Int} {bad : Nat}
    (haccepts : accepts s.cfg (.blit b src x y w h) = true) (hlt : bad < w.toNat * h.toNat)
    (hgood : ∀ n < bad, sourceAt src n = 0#8 ∨ sourceAt src n = 1#8) (hbad : isPixel (sourceAt src bad) = false) :
    exec (.blit b src x y w h) s =
      .next (s.setMem (bufOf b) (blitPixels s.cfg (bufOf b) src x y w h bad (s.canvas (bufOf b))).mem).badRequest := by
  refine congrArg Host.Outcome.next ((if_pos haccepts).trans ?_)
  rw [firstBad_eq_some hlt hgood hbad]

/-- Settles O37: the points before the bad answer painted (`blitPixels_painted`), read pixel by pixel and byte by byte. -/
theorem blitStopsAtABadAnswer : Obligations.BlitStopsAtABadAnswer := by
  intro s b src x y w h bad hl haccepts hlt hgood hne0 hne1
  have hbad : isPixel (sourceAt src bad) = false := by
    rw [Bool.eq_false_iff, Ne, isPixel_iff]
    exact not_or_intro hne0 hne1
  have painted := blitPixels_painted hl (bufOf b) src x y w h bad (s.canvas (bufOf b))
  refine ⟨_, by rw [exec_blit_of_bad haccepts hlt hgood hbad, State.setMem_badRequest_eq], fun px py hin => ?_, fun k hk => ?_⟩
  · obtain ⟨written, kept⟩ := painted.getPixel hin
    exact ⟨fun ⟨hrect, hbefore⟩ => written ⟨hbefore, hrect, hin⟩,
      fun hnot => kept fun ⟨hbefore, hrect, _⟩ => hnot ⟨hrect, hbefore⟩⟩
  · exact painted.bytes k fun px py hin ⟨hbefore, hrect, _⟩ => hk px py hin hrect hbefore

/-! ### A protocol operation outside phase Idle (R151, R223) -/

theorem protocolOp_refused {s : State} {i : Instr} {ops : List SeqOp} (ha : accepts s.cfg i = true) (hp : s.phase ≠ .idle) :
    s.protocolOp i ops = s.phaseRefused := by
  rw [State.protocolOp, if_pos ha, if_neg hp]

/-- Settles O22: each of the seven is a `protocolOp`, which looks at the phase before its sequence (`protocolOp_refused`). -/
theorem phaseRefusal : Obligations.PhaseRefusal := by
  intro s i hphase haccepts hi
  have protocol : ∃ ops, exec i s = .next (s.protocolOp i ops) := by
    obtain ⟨xs, ys, xe, ye, rfl⟩ | ⟨x, y, rfl⟩ | rfl | ⟨b, rfl⟩ | ⟨b, rfl⟩ | ⟨v, rfl⟩ | rfl := hi <;> exact ⟨_, rfl⟩
  obtain ⟨ops, hexec⟩ := protocol
  rw [hexec, protocolOp_refused haccepts hphase]
  rfl

/-! ### A request with an operand that is not accepted (R225, R228) -/

/-- Every request looks at its operands before anything else (R228). -/
theorem exec_request_checked {i : Instr} (s : State) (hr : i.isRequest = true) :
    ∃ t, exec i s = .next (if accepts s.cfg i then t else s.badRequest) := by
  cases i with
  | init | setWindow | setCursor | turnOn | display | displayL | clear | sleep => exact ⟨_, rfl⟩
  | setPixel | fillRect | fill | blit | stext | autofit => exact ⟨_, rfl⟩
  | _ => cases hr

/-- Settles O23: the operand check comes first in every request (`exec_request_checked`). -/
theorem badOperandsChangeNothing : Obligations.BadOperandsChangeNothing := by
  intro s i hrequest hrefused
  obtain ⟨t, hexec⟩ := exec_request_checked s hrequest
  rw [hexec, hrefused]
  rfl

/-! ### Which operands are accepted (R9, R114, R192, R225) -/

theorem inRange_iff (v : Int) : inRange v = true ↔ isInt32 v := by
  simp only [inRange, isInt32, Bool.and_eq_true, decide_eq_true_eq]
  omega

theorem isSelector_iff (b : Int) : isSelector b = true ↔ b = 0 ∨ b = 1 := by
  simp only [isSelector, Bool.or_eq_true, decide_eq_true_eq]

theorem isColor_iff (color : Int) : isColor color = true ↔ color = 0 ∨ color = 1 := by
  simp only [isColor, Bool.or_eq_true, decide_eq_true_eq]

theorem isByte_iff (v : Int) : isByte v = true ↔ 0 ≤ v ∧ v ≤ 255 := by
  simp only [isByte, Bool.and_eq_true, decide_eq_true_eq]

theorem isText_iff (c : Cfg) (text : Line) : isText c text = true ↔ text.length ≤ c.txtMax :=
  decide_eq_true_iff

theorem all_inRange_iff (cap : Option Int) : cap.all inRange = true ↔ ∀ n, cap = some n → isInt32 n := by
  simp only [Option.all_eq_true, inRange_iff]

/-- Settles O24: a request is accepted when each of its operand checks is, and each check says which operands it lets pass. -/
theorem operandLimits : Obligations.OperandLimits := by
  intro c b x y w h color v text src cap center cv
  simp only [accepts, Bool.and_eq_true, inRange_iff, isSelector_iff, isColor_iff, isByte_iff, isText_iff, all_inRange_iff,
    and_assoc, and_self]

end Sys2Proof.Machine
end

section
/-!
PROOFS. The statements of 70_reset_and_hazards.md: the controller that never answers Idle (R263), the rest of the waveform table
(R258), and a run with its requests' statuses and its good end (R271).
-/

namespace Sys2Proof

/-- The configuration with another waveform table. -/
def Cfg.withLut (c : Cfg) (table : List Byte) : Cfg :=
  { c with lut := table }

end Sys2Proof

namespace Sys2Proof.Machine

/-! ### A silent controller (R263) -/

/-- Settles O10: with BUSY_TIMEOUT infinite no number of samples exhausts the wait, so `run_busyPolls` holds for every `k`. -/
theorem silentControllerHangs : Obligations.SilentControllerHangs := by
  intro s n k rest later hl hs ha hinfinite
  refine run_busyPolls hl hs ha fun t hlimit => ?_
  rw [hinfinite] at hlimit
  cases hlimit

/-! ### Another waveform table (R258) -/

/-- The engine built with another waveform table. -/
def State.withLut (s : State) (table : List Byte) : State :=
  { s with cfg := s.cfg.withLut table }

section AnyTable

variable {s : State} {table : List Byte}

theorem ite_withLut (p : Prop) [Decidable p] {a a' b b' : State} (ha : a' = a.withLut table) (hb : b' = b.withLut table) :
    (if p then a' else b') = (if p then a else b).withLut table := by
  split <;> assumption

theorem applyOp_withLut (s : State) (op : SeqOp) : applyOp (s.withLut table) op = (applyOp s op).withLut table := by
  cases op <;> rfl

/-- The sequencer asks the configuration for BUSY_TIMEOUT alone (R134). -/
theorem runSeq_withLut (n : Nat) (ops : List SeqOp) (s : State) :
    runSeq n ops (s.withLut table) = (runSeq n ops s).withLut table := by
  induction ops generalizing n s with
  | nil => rfl
  | cons op ops ih =>
    by_cases hw : op = .wait
    · subst hw
      cases hr : s.nextAnswer with
      | idle =>
        rw [runSeq_wait_idle _ _ _ hr, runSeq_wait_idle _ _ (s.withLut table) hr, ← ih]
        rfl
      | busy =>
        cases ht : timedOut s.cfg (n + 1) with
        | true =>
          rw [runSeq_wait_timeout _ _ _ hr ht, runSeq_wait_timeout _ _ (s.withLut table) hr ht]
          rfl
        | false =>
          rw [runSeq_wait_busy _ _ _ hr ht, runSeq_wait_busy _ _ (s.withLut table) hr ht]
          rfl
    · rw [runSeq_item _ _ _ _ hw, runSeq_item _ _ _ _ hw, applyOp_withLut, ih]

theorem startOp_withLut (i : Instr) (ops : List SeqOp) :
    (s.withLut table).startOp i ops = (s.startOp i ops).withLut table :=
  runSeq_withLut 0 (ops ++ [SeqOp.status .ok]) { s with latch := some i }

/-- A protocol operation whose sequence is the same with the other table. -/
theorem protocolOp_withLut (i : Instr) {ops ops' : List SeqOp} (h : ops' = ops) :
    (s.withLut table).protocolOp i ops' = (s.protocolOp i ops).withLut table :=
  h ▸ ite_withLut _ (ite_withLut _ (startOp_withLut i ops') rfl) rfl

theorem writeRamSeq_withLut (src : RamSource) : writeRamSeq (s.withLut table) src = writeRamSeq s src := by
  cases src <;> rfl

theorem showSeq_withLut (src : RamSource) : showSeq (s.withLut table) src = showSeq s src :=
  congrArg (curSeq s.cfg.curX s.cfg.curY ++ · ++ refreshSeq) (writeRamSeq_withLut src)

theorem canvas_withLut (b : Buf) : (s.withLut table).canvas b = s.canvas b := by
  cases b <;> rfl

theorem setMem_withLut (b : Buf) (m : Memory) : (s.withLut table).setMem b m = (s.setMem b m).withLut table := by
  cases b <;> rfl

theorem drawn_withLut (b : Buf) (v : Canvas) : (s.withLut table).drawn b v = (s.drawn b v).withLut table := by
  cases b <;> rfl

/-- A drawing operation whose picture is the same with the other table. -/
theorem draw_withLut (i : Instr) (b : Buf) (picture : Cfg → Canvas → Canvas)
    (h : ∀ v, picture (s.cfg.withLut table) v = picture s.cfg v) :
    (if accepts (s.withLut table).cfg i then
        (s.withLut table).drawn b (picture (s.withLut table).cfg ((s.withLut table).canvas b))
      else (s.withLut table).badRequest) =
      (if accepts s.cfg i then s.drawn b (picture s.cfg (s.canvas b)) else s.badRequest).withLut table := by
  refine ite_withLut _ ?_ rfl
  rw [canvas_withLut, drawn_withLut]
  exact congrArg (fun v => (s.drawn b v).withLut table) (h (s.canvas b))

/-! The recursive functions of the text operations: the layout and the font come from other fields. -/

theorem paintLines_withLut (c : Cfg) (b : Buf) (x y scale : Int) (color : Bool) (li : Nat) (lines : List Line) (v : Canvas) :
    paintLines (c.withLut table) b x y scale color li lines v = paintLines c b x y scale color li lines v := by
  induction lines generalizing li v with
  | nil => rfl
  | cons line lines ih => exact ih _ _

theorem stb_withLut (c : Cfg) (b : Buf) (text : Line) (x y scale : Int) (color : Bool) (v : Canvas) :
    stb (c.withLut table) b text x y scale color v = stb c b text x y scale color v :=
  paintLines_withLut ..

theorem paintFitted_withLut (c : Cfg) (b : Buf) (x y : Int) (scale : Nat) (color center : Bool) (li : Nat) (lines : List Line)
    (v : Canvas) :
    paintFitted (c.withLut table) b x y scale color center li lines v = paintFitted c b x y scale color center li lines v := by
  induction lines generalizing li v with
  | nil => rfl
  | cons line lines ih =>
    rw [paintFitted, ih, stb_withLut, paintFitted]
    rfl

theorem search_withLut (c : Cfg) (inputLines : List Line) (n : Nat) :
    search (c.withLut table) inputLines n = search c inputLines n := by
  induction n with
  | zero => rfl
  | succ n ih =>
    rw [search, ih, search]
    rfl

theorem fitText_withLut (c : Cfg) (text : Line) (cap : Option Int) : fitText (c.withLut table) text cap = fitText c text cap := by
  rw [fitText, search_withLut]
  rfl

/-- With either table the instruction answers the same state, but for the table itself. -/
def AlikeButLut (s : State) (table : List Byte) (i : Instr) : Prop :=
  ∃ t, exec i s = .next t ∧ exec i (s.withLut table) = .next (t.withLut table)

theorem blit_alikeButLut (b : Int) (src : PixelSource) (x y w h : Int) : AlikeButLut s table (.blit b src x y w h) := by
  refine ⟨_, rfl, congrArg Host.Outcome.next (ite_withLut _ ?_ rfl)⟩
  rw [canvas_withLut]
  cases firstBad src (w.toNat * h.toNat) with
  | none => exact drawn_withLut ..
  | some limit => exact congrArg State.badRequest (setMem_withLut ..)

theorem autofit_alikeButLut (b : Int) (text : Line) (x y color : Int) (cap : Option Int) (center cv : Bool) :
    AlikeButLut s table (.autofit b text x y color cap center cv) := by
  refine ⟨_, rfl, congrArg Host.Outcome.next (ite_withLut _ ?_ rfl)⟩
  have hfit : fitText (s.withLut table).cfg text cap = fitText s.cfg text cap := fitText_withLut s.cfg text cap
  dsimp only
  rw [canvas_withLut, hfit, ← drawn_withLut]
  exact congrArg (State.drawn _ _) (paintFitted_withLut ..)

end AnyTable

section SamePrefix

variable {s : State} {table : List Byte} (hlut : s.cfg.lut.take 153 = table.take 153)
include hlut

theorem lutByte_withLut {k : Nat} (hk : k < 153) : (s.cfg.withLut table).lutByte k = s.cfg.lutByte k := by
  have hbyte : s.cfg.lut[k]? = table[k]? := by
    rw [← List.getElem?_take_of_lt hk, hlut, List.getElem?_take_of_lt hk]
  rw [Cfg.lutByte, Cfg.lutByte, List.getD_eq_getElem?_getD, List.getD_eq_getElem?_getD, hbyte]
  rfl

/-- The upload sends the 153 bytes the tables share (R107, R152); no other sequence reads a table. -/
theorem writeLutSeq_withLut : writeLutSeq (s.cfg.withLut table) = writeLutSeq s.cfg := by
  have bytes : (List.range Config.lutUsed).map (s.cfg.withLut table).lutByte = (List.range Config.lutUsed).map s.cfg.lutByte :=
    List.map_congr_left fun _ hk => lutByte_withLut hlut (List.mem_range.1 hk)
  rw [writeLutSeq, bytes, writeLutSeq]

theorem initSeq_withLut (mode : Int) : initSeq (s.cfg.withLut table) mode = initSeq s.cfg mode := by
  have branch : partialBranch (s.cfg.withLut table) = partialBranch s.cfg := by
    rw [partialBranch, writeLutSeq_withLut hlut]
    rfl
  rw [initSeq, branch]
  rfl

theorem busSeq_withLut (i : Instr) : busSeq (s.withLut table) i = busSeq s i := by
  cases i with
  | cmdWriteLut => exact writeLutSeq_withLut hlut
  | cmdWriteRam src => exact writeRamSeq_withLut src
  | _ => rfl

theorem init_alikeButLut (mode : Int) : AlikeButLut s table (.init mode) := by
  refine ⟨_, rfl, congrArg Host.Outcome.next (ite_withLut _ ?_ rfl)⟩
  have hseq : initSeq (s.withLut table).cfg mode = initSeq s.cfg mode := initSeq_withLut hlut mode
  rw [hseq]
  cases initSeq s.cfg mode with
  | none => rfl
  | some ops => exact startOp_withLut _ ops

/-- Every instruction: its sequence or its picture is the same with either table. -/
theorem exec_alikeButLut (i : Instr) : AlikeButLut s table i := by
  cases hr : i.isRequest with
  | false =>
    rw [AlikeButLut, exec_bus hr, exec_bus hr, busSeq_withLut hlut]
    exact ⟨_, rfl, congrArg Host.Outcome.next (runSeq_withLut ..)⟩
  | true =>
    cases i with
    | init mode => exact init_alikeButLut hlut mode
    | setWindow | setCursor | turnOn | sleep => exact ⟨_, rfl, congrArg Host.Outcome.next (protocolOp_withLut _ rfl)⟩
    | display | displayL | clear =>
      exact ⟨_, rfl, congrArg Host.Outcome.next (protocolOp_withLut _ (showSeq_withLut _))⟩
    | setPixel b x y color =>
      exact ⟨_, rfl, congrArg Host.Outcome.next (draw_withLut _ _ (fun c => putPixel c _ x y _) fun _ => rfl)⟩
    | fillRect b x y w h color =>
      exact ⟨_, rfl, congrArg Host.Outcome.next (draw_withLut _ _ (fun c => rect c _ x y w h _) fun _ => rfl)⟩
    | fill b color =>
      exact ⟨_, rfl, congrArg Host.Outcome.next (draw_withLut _ _ (fun c _ => ⟨Memory.uniform c.fbLen _, true⟩) fun _ => rfl)⟩
    | blit b src x y w h => exact blit_alikeButLut b src x y w h
    | stext b text x y scale color =>
      exact ⟨_, rfl, congrArg Host.Outcome.next
        (draw_withLut _ _ (fun c => stb c _ text x y scale _) (stb_withLut _ _ text x y scale _))⟩
    | autofit b text x y color cap center cv => exact autofit_alikeButLut b text x y color cap center cv
    | _ => cases hr

end SamePrefix

/-- Settles O29: the waveform upload reads the shared bytes alone (`writeLutSeq_withLut`), and nothing else reads the table
(`exec_alikeButLut`). -/
theorem waveformTailIsNeverRead : Obligations.WaveformTailIsNeverRead := by
  intro s t i table hlut hexec
  obtain ⟨u, hs, htable⟩ := exec_alikeButLut hlut i
  rw [hexec] at hs
  cases hs
  exact htable

/-! ### A run, request by request (R271) -/

/-- A run from `s` to its end at `t`, `sts` the statuses its requests end with: nothing to do, or a step that stays inside a request, or
a step that ends one. -/
inductive RunTo : State → List Status → State → Prop where
  | done {s : State} (hseq : s.seq = .idle) (hport : s.port = []) : RunTo s [] s
  | inside {s u t : State} {sts : List Status} (hbusy : ¬(s.seq = .idle ∧ s.port = [])) (hstep : RunStep s u)
      (hu : u.seq ≠ .idle) (hrun : RunTo u sts t) : RunTo s sts t
  | ends {s u t : State} {sts : List Status} (hbusy : ¬(s.seq = .idle ∧ s.port = [])) (hstep : RunStep s u)
      (hu : u.seq = .idle) (hrun : RunTo u sts t) : RunTo s (u.res.status :: sts) t

/-- The steps of a run that has ended are a `RunTo` with the statuses of these steps; a step with nothing to do adds none. -/
theorem runTo_statuses {n : Nat} {s t : State} (hs : inRun s) (hrun : Host.Core.run Sys2Proof.core n s = .next t)
    (hseq : t.seq = .idle) (hport : t.port = []) : RunTo s (statuses n s) t := by
  induction n generalizing s with
  | zero =>
    cases hrun
    exact .done hseq hport
  | succ n ih =>
    obtain ⟨u, hstep, hrest⟩ := run_succ_eq.1 hrun
    rw [statuses_succ n hstep, completed]
    by_cases hwaits : s.seq = .idle ∧ s.port = []
    · obtain rfl := step_idle hwaits.1 hwaits.2 hstep
      rw [if_pos hwaits]
      exact ih hs hrest
    · have hrunStep := step_runStep hs hwaits hstep
      have hlater := ih hrunStep.inRun hrest
      rw [if_neg hwaits]
      by_cases hu : u.seq = .idle
      · rw [if_pos hu]
        exact .ends hwaits hrunStep hu hlater
      · rw [if_neg hu]
        exact .inside hwaits hrunStep hu hlater

/-- The requests not yet completed: the one in progress and those at the port. -/
def State.pending (s : State) : Nat :=
  s.port.length + if s.seq = .idle then 0 else 1

theorem State.pending_idle {s : State} (hs : s.seq = .idle) : s.pending = s.port.length := by
  rw [State.pending, if_pos hs, Nat.add_zero]

theorem State.pending_busy {s : State} (hs : s.seq ≠ .idle) : s.pending = s.port.length + 1 := by
  rw [State.pending, if_neg hs]

/-- Pending before a step with something to do: the requests it leaves at the port and the one it works on. -/
theorem RunStep.pending {s u : State} (h : RunStep s u) (hbusy : ¬(s.seq = .idle ∧ s.port = [])) :
    s.pending = u.port.length + 1 := by
  by_cases hs : s.seq = .idle
  · have hport : s.port ≠ [] := fun hp => hbusy ⟨hs, hp⟩
    rw [State.pending_idle hs, h.taken hs, List.length_tail, Nat.sub_add_cancel (List.length_pos_iff.2 hport)]
  · rw [State.pending_busy hs, h.kept hs]

/-- One status for each pending request (R12). -/
theorem RunTo.length_eq {s t : State} {sts : List Status} (h : RunTo s sts t) : sts.length = s.pending := by
  induction h with
  | done hseq hport => rw [State.pending_idle hseq, hport, List.length_nil, List.length_nil]
  | inside hbusy hstep hu _ ih => rw [ih, hstep.pending hbusy, State.pending_busy hu]
  | ends hbusy hstep hu _ ih => rw [hstep.pending hbusy, List.length_cons, ih, State.pending_idle hu]

/-- The last status is the one in RES.STATUS at the end; with none, the run has nothing to do from its start. -/
theorem RunTo.last {s t : State} {sts : List Status} (h : RunTo s sts t) :
    (sts = [] ∧ t = s ∧ s.seq = .idle) ∨ sts.getLast? = some t.res.status := by
  induction h with
  | done hseq _ => exact .inl ⟨rfl, rfl, hseq⟩
  | inside _ _ hu _ ih => exact .inr (ih.resolve_left fun ⟨_, _, hidle⟩ => hu hidle)
  | ends _ _ _ _ ih =>
    obtain ⟨rfl, rfl, -⟩ | hlast := ih
    · exact .inr rfl
    · exact .inr (by rw [List.getLast?_cons, hlast, Option.getD_some])

/-- A flag is set only by a request that ends with a bad status (R222, R223). -/
theorem RunTo.fault_eq {s t : State} {sts : List Status} (h : RunTo s sts t) (hgood : ∀ st ∈ sts, st.bad = false) :
    t.fault = s.fault := by
  induction h with
  | done => rfl
  | inside _ hstep hu _ ih => exact (ih hgood).trans (hstep.goesOn hu)
  | ends _ hstep hu _ ih =>
    obtain ⟨hfirst, hlater⟩ := List.forall_mem_cons.1 hgood
    obtain ⟨htimeout, -⟩ | ⟨hrefused, -⟩ | ⟨-, -, hfault⟩ := hstep.ends hu
    · rw [htimeout] at hfirst
      cases hfirst
    · rw [hrefused] at hfirst
      cases hfirst
    · exact (ih hlater).trans hfault

theorem Status.bad_eq_false_iff (st : Status) : st.bad = false ↔ st ≠ .timeout ∧ st ≠ .phaseRefused ∧ st ≠ .badRequest := by
  cases st <;> decide

theorem faultFree_congr {s t : State} (h : t.fault = s.fault) : t.faultFree = s.faultFree := by
  rw [State.faultFree, h, State.faultFree]

/-- Settles O50: the run's steps are a `RunTo` (`runTo_statuses`), whose statuses are as many as the requests, end with the last one's, and
leave S.FAULT alone when none is bad. -/
theorem runEndsWithOneStatusEach : Obligations.RunEndsWithOneStatusEach := by
  intro n s t hends
  have ⟨hidle, hrun, hseq, hport⟩ := hends
  have hstart : inRun s := by
    rw [inRun, hidle]
    trivial
  have run := runTo_statuses hstart hrun hseq hport
  have count : (statuses n s).length = s.port.length := run.length_eq.trans (State.pending_idle hidle)
  refine ⟨count, fun hne => run.last.resolve_left fun ⟨hnone, _⟩ => ?_, fun hfree => ?_⟩
  · rw [hnone] at count
    exact hne (List.eq_nil_of_length_eq_zero count.symm)
  · simp only [← Status.bad_eq_false_iff]
    have free (hgood : ∀ st ∈ statuses n s, st.bad = false) : t.faultFree = true :=
      (faultFree_congr (run.fault_eq hgood)).trans hfree
    exact ⟨fun ⟨_, _, hgood⟩ => hgood, fun hgood => ⟨hends, free hgood, hgood⟩⟩

end Sys2Proof.Machine
end
